-- ==== Sys2Proof/Word.lean ====
section
/-! DEFINITION. Word.lean: bytes, nibbles, line levels and the three-byte frame (00_scope.md R12, R14; 30_encoding.md R60). -/

namespace Sys2Proof

/-- R12: a byte is an unsigned 8-bit value. -/
abbrev Byte := BitVec 8

/-- R12: a nibble is an unsigned 4-bit value. -/
abbrev Nibble := BitVec 4

/-- R14: a level of an output line. -/
inductive Level where
  | low
  | high
  deriving DecidableEq, Repr, Inhabited

/-- R13: the other level, written `¬l` in the spec. -/
def Level.other : Level → Level
  | .low => .high
  | .high => .low

/-- R31, R32: the one bit of `SEL` and of `RST`, `0 = Low` and `1 = High`. -/
def Level.bit : Level → BitVec 1
  | .low => 0#1
  | .high => 1#1

/-- R60: a frame is exactly three bytes, `b0` (the mode marker) sent first. -/
structure Frame where
  b0 : Byte
  b1 : Byte
  b2 : Byte
  deriving DecidableEq, Repr, Inhabited

end Sys2Proof
end

