-- ==== Sys2Proof/Config.lean ====
section
/-! DEFINITION. Config.lean: the parameter record `Cfg` (00_scope.md R9 to R11), its fixed fields, and the free values. -/

namespace Sys2Proof

/-- R9: a frame has three bytes, and the transmitter is always handed this length. -/
def FRAME_LEN : Nat := 3
/-- R9: the bring-up sequence has fourteen instruction bytes. -/
def N_INIT : Nat := 14
/-- R9, R14: the select line is asserted when it is `Low`. -/
def SELECT_ACTIVE : Level := .low
/-- R9, R131: the base address of row 1 (host side). -/
def ROW_BASE : Nat := 0x80
/-- R9, R131: the distance between two row base addresses (host side). -/
def ROW_STRIDE : Nat := 0x20
/-- R9, R131: the number of rows (host side). -/
def N_ROWS : Nat := 4

/-- R9: the fields the spec leaves OPEN, and the two launch levels.  Plain data, so that a statement over every
state is a statement over every configuration (log 1). -/
structure Cfg where
  markerInstr : Byte
  markerData : Byte
  initOp : Vector Byte 14
  tSelHigh : Nat
  tSelLow : Nat
  tRstPulse : Nat
  tRstSettle : Nat
  txTimeout : Nat
  resetActive : Level
  postInitSelect : Level
  sel0 : Level
  rst0 : Level
  deriving DecidableEq, Repr

/-- R11: the only constraint between fields of `Cfg`, `MARKER_INSTR ≠ MARKER_DATA`. -/
def Cfg.wf (c : Cfg) : Bool := c.markerInstr != c.markerData

/-- R35: the two answers of the transmit collaborator. -/
inductive TxAnswer where
  | ok
  | fail
  deriving DecidableEq, Repr, Inhabited

namespace Config

/-- D10, OPEN: the instruction mode marker. -/
opaque markerInstr : Byte
/-- D10, OPEN: how far the data marker lies beyond the instruction marker, less one (log 2). -/
opaque markerGap : Fin 255
/-- D11, OPEN: the fourteen bring-up bytes. -/
opaque initOp : Vector Byte 14
/-- D12, OPEN: first settle delay of a transaction. -/
opaque tSelHigh : Nat
/-- D12, OPEN: second settle delay of a transaction. -/
opaque tSelLow : Nat
/-- D5, OPEN: how long the display reset is held, may be 0. -/
opaque tRstPulse : Nat
/-- D12, OPEN: the settle delay after the display reset. -/
opaque tRstSettle : Nat
/-- D12, OPEN: the transmit timeout. -/
opaque txTimeout : Nat
/-- D13, OPEN: the active level of the reset line. -/
opaque resetActive : Level
/-- D14, OPEN: the level written to the select line at the end of `INIT`. -/
opaque postInitSelect : Level
/-- D8: the unspecified launch level of the select line (log 4). -/
opaque sel0 : Level
/-- D8: the unspecified launch level of the reset line (log 4). -/
opaque rst0 : Level

/-- R35, D7: the answer of the n-th draw, a free value no rule reads (log 9). -/
opaque txAnswer : Nat → TxAnswer
/-- R23, R36: what stands in `FB` after a block reset, a free value no rule reads (log 3). -/
opaque unwrittenFrame : Nat → Frame

/-- R36: `Cfg` as given at launch.  Every pair of different markers is some `markerInstr` and `markerGap`, and no pair of
equal markers is (R11; log 2). -/
def launch : Cfg where
  markerInstr := markerInstr
  markerData := markerInstr + 1#8 + BitVec.ofNat 8 markerGap.val
  initOp := initOp
  tSelHigh := tSelHigh
  tSelLow := tSelLow
  tRstPulse := tRstPulse
  tRstSettle := tRstSettle
  txTimeout := txTimeout
  resetActive := resetActive
  postInitSelect := postInitSelect
  sel0 := sel0
  rst0 := rst0

end Config

end Sys2Proof
end

