-- ==== Sys2Proof/Syntax.lean ====
section
/-! DEFINITION. Syntax.lean: the rows of spec/opcode_table.json, the words they are written in, and the host's requests. -/

namespace Sys2Proof

/-- One constructor per row of the opcode table (30_encoding.md R67, R68).  `NOP` and `INIT` ignore the byte field of
their word and do not store it (R69), so they have no operand here. -/
inductive Instr where
  /-- `NOP` (R91) -/
  | nop
  /-- `SENDI b` (R92) -/
  | sendi (b : Byte)
  /-- `SENDD b` (R93) -/
  | sendd (b : Byte)
  /-- `INIT` (R110) -/
  | init
  /-- `ENCODE`: the codec function `Encode(m, b)` (R80); no command (R68; log 7) -/
  | encode (m b : Byte)
  deriving DecidableEq, Repr

/-- An instruction as bits: a 10-bit command word of format `CW` (R66), or a 24-bit word of format `F3` in the table's
numbering, the byte sent first in bits 23 to 16 (R61). -/
inductive InstrWord where
  | cw (w : BitVec 10)
  | f3 (w : BitVec 24)
  deriving DecidableEq, Repr

/-- What the host has still to issue (60_exceptions.md R157): a word, or the pseudo-command `RENDER row, seq` whose
expansion is the host's (30_encoding.md R74).  `row` is an integer and `seq` the bytes with their sentinel (R130). -/
inductive Request where
  | word (x : InstrWord)
  | render (row : Int) (seq : List Byte)
  deriving DecidableEq, Repr

end Sys2Proof
end

