-- ==== Sys2Proof/WellFormed.lean ====
section
/-! DEFINITION. WellFormed.lean: which instructions, frames and requests the spec admits. -/

namespace Sys2Proof

/-- Every operand value is legal: "any byte value is sent as given" (30_encoding.md R64, R69) and `Encode` is total over
both its bytes (40_frame_codec.md R80), so the operand's type is the whole check. -/
def Instr.wf : Instr → Bool
  | .nop => true
  | .sendi _ => true
  | .sendd _ => true
  | .init => true
  | .encode _ _ => true

/-- R85: a triple of bytes is a frame the block can have made. -/
def Frame.wf (c : Cfg) (f : Frame) : Bool :=
  (f.b0 == c.markerInstr || f.b0 == c.markerData) && decide (f.b1 < 16#8) && decide (f.b2 < 16#8)

/-- R60: the fixed bits of format `F3`, bits 7 to 4 of the second and of the third byte, are zero.  Format `CW` fixes
nothing beyond its operation field, so every command word is legal (R69). -/
def InstrWord.wf : InstrWord → Bool
  | .cw _ => true
  | .f3 w => w.extractLsb' 12 4 == 0#4 && w.extractLsb' 4 4 == 0#4

/-- R131: the rows `RENDER` has an expansion for. -/
def rowInRange (row : Int) : Bool := decide (1 ≤ row) && decide (row ≤ (N_ROWS : Int))

/-- R133: a GlyphSequence holds a zero byte, its sentinel. -/
def hasSentinel (seq : List Byte) : Bool := seq.any (· == 0#8)

/-- The requests the host may make (R69, R133, R135; for an `F3` word R60). -/
def Request.wf : Request → Bool
  | .word x => x.wf
  | .render row seq => rowInRange row && hasSentinel seq

end Sys2Proof
end

