-- ==== Sys2Proof/Decode.lean ====
section
/-! DEFINITION. Decode.lean: the total decoder, the encoder, and the opcode table's rows (30_encoding.md R60, R66 to R69). -/

namespace Sys2Proof

/-- Why a word is no instruction.  No command word is ever rejected (R69). -/
inductive DecodeError where
  /-- an `F3` word with a bit set among bits 7 to 4 of its second or third byte (R60; log 8) -/
  | upperNibbleNotZero (w : BitVec 24)
  deriving DecidableEq, Repr

/-- R66: the operation field `cw[9:8]`. -/
def opField (w : BitVec 10) : BitVec 2 := w.extractLsb' 8 2

/-- R66: the byte field `cw[7:0]`. -/
def byteField (w : BitVec 10) : Byte := w.extractLsb' 0 8

/-- R67, R69: every one of the 1024 command words is a command. -/
def decodeCommand (w : BitVec 10) : Instr :=
  if opField w = 0#2 then .nop
  else if opField w = 1#2 then .sendi (byteField w)
  else if opField w = 2#2 then .sendd (byteField w)
  else .init

/-- R60: format `F3`, the marker in bits 23 to 16, `b[3:0]` in bits 11 to 8, `b[7:4]` in bits 3 to 0. -/
def decodeF3 (w : BitVec 24) : Except DecodeError Instr :=
  if w.extractLsb' 12 4 = 0#4 ∧ w.extractLsb' 4 4 = 0#4 then
    .ok (.encode (w.extractLsb' 16 8) ((w.extractLsb' 0 4).setWidth 8 <<< 4 ||| (w.extractLsb' 8 4).setWidth 8))
  else .error (.upperNibbleNotZero w)

/-- The decoder, total on both formats. -/
def decode : InstrWord → Except DecodeError Instr
  | .cw w => .ok (decodeCommand w)
  | .f3 w => decodeF3 w

/-- R60, R61: the three bytes in sending order, leftmost first, `mmmmmmmm 0000llll 0000hhhh`. -/
def f3Word (m b : Byte) : BitVec 24 :=
  m.setWidth 24 <<< 16 ||| (b.extractLsb' 0 4).setWidth 24 <<< 8 ||| (b.extractLsb' 4 4).setWidth 24

/-- R66: the command word with operation field `op` and byte field `b`. -/
def commandWord (op : BitVec 2) (b : Byte) : BitVec 10 := op.setWidth 10 <<< 8 ||| b.setWidth 10

/-- The encoder.  R73: the byte field of `NOP` and of `INIT` is emitted as 0. -/
def encodeInstr : Instr → InstrWord
  | .nop => .cw (commandWord 0#2 0#8)
  | .sendi b => .cw (commandWord 1#2 b)
  | .sendd b => .cw (commandWord 2#2 b)
  | .init => .cw (commandWord 3#2 0#8)
  | .encode m b => .f3 (f3Word m b)

/-- A row of spec/opcode_table.json: its width in bits and its fixed bits as match and mask (for `ENCODE` from its
"fixed" list, R60). -/
structure OpcodeRow where
  mnemonic : String
  width : Nat
  fixedBits : Nat
  mask : Nat
  deriving DecidableEq, Repr

def rowNop : OpcodeRow := ⟨"NOP", 10, 0x000, 0x300⟩
def rowSendi : OpcodeRow := ⟨"SENDI", 10, 0x100, 0x300⟩
def rowSendd : OpcodeRow := ⟨"SENDD", 10, 0x200, 0x300⟩
def rowInit : OpcodeRow := ⟨"INIT", 10, 0x300, 0x300⟩
def rowEncode : OpcodeRow := ⟨"ENCODE", 24, 0x000000, 0x00F0F0⟩

/-- The table's row of an instruction. -/
def Instr.row : Instr → OpcodeRow
  | .nop => rowNop
  | .sendi _ => rowSendi
  | .sendd _ => rowSendd
  | .init => rowInit
  | .encode _ _ => rowEncode

/-- A word's width and its bits as a number. -/
def InstrWord.width : InstrWord → Nat
  | .cw _ => 10
  | .f3 _ => 24

def InstrWord.toNat : InstrWord → Nat
  | .cw w => w.toNat
  | .f3 w => w.toNat

/-- R67: the word spells the row's instruction when its width is the row's and `w & mask == match`. -/
def OpcodeRow.spells (r : OpcodeRow) (x : InstrWord) : Bool :=
  x.width == r.width && (x.toNat &&& r.mask) == r.fixedBits

/-- The word of a table row: up to 16 bits it is a command word, which has 10 bits and so no bit set above them; 24 bits
are format `F3`.  Anything else is no word of the table (log 13). -/
def tableWord (nbits w : Nat) : Option InstrWord :=
  if nbits ≤ 16 then
    if w < 1024 then some (.cw (BitVec.ofNat 10 w)) else none
  else if nbits = 24 then
    if w < 16777216 then some (.f3 (BitVec.ofNat 24 w)) else none
  else none

/-- The instruction the decoder reads from an instruction numbered as the opcode table numbers it. -/
def decodeTableWord (nbits w : Nat) : Option Instr :=
  match tableWord nbits w with
  | none => none
  | some x =>
    match decode x with
    | .ok i => some i
    | .error _ => none

end Sys2Proof
end

