-- ==== Sys2Proof/Machine/State.lean ====
section
/-! DEFINITION. Machine/State.lean: the architectural state (10_state.md), its reset values, and the reasons a step can stop. -/

namespace Sys2Proof.Machine

/-- R24: the twelve phases of the sequencer. -/
inductive Phase where
  | idle
  | rAssert
  | rPulse
  | rRelease
  | rSettle
  | iLoad
  | xDesel
  | xWait1
  | xSel
  | xWait2
  | xTx
  | iFinal
  deriving DecidableEq, Repr

/-- R30: an event, one call of a primitive. -/
inductive Event where
  /-- `SelW(l)` -/
  | selW (l : Level)
  /-- `RstW(l)` -/
  | rstW (l : Level)
  /-- `Dly(n)` -/
  | dly (n : Nat)
  /-- `Tx(f0, f1, f2, len, timeout)`: the call, not the delivery -/
  | tx (f0 f1 f2 : Byte) (len timeout : Nat)
  deriving DecidableEq, Repr

/-- R140, R149: the block raises no exception, has no fault and is never stuck, so there is no fault. -/
inductive Fault where
  deriving DecidableEq, Repr

/-- R149: refusals stand at the host layer only. -/
inductive Refusal where
  /-- an arm of `exec` that has no meaning yet; safe (no arm of this model answers it) -/
  | notModelled (mnemonic : String)
  /-- raised by issuing `RENDER` with a row outside 1 to 4 (43_text_render_host.md R135); safe -/
  | renderRowOutOfRange (row : Int)
  /-- raised by issuing `RENDER` with a sequence that has no zero byte (R133); safe -/
  | renderWithoutSentinel
  /-- raised by issuing an `F3` word that is no result of `Encode` (R60, R85; log 8); safe -/
  | notACodecWord (w : BitVec 24)
  deriving DecidableEq, Repr

/-- R20: the tuple `(FB, SEL, RST, PH, IX, INI)` and `TRACE`; beside them the constant `cfg` (log 1) and, below it, the
model's own fields. -/
structure State where
  /-- R9, R10: the configuration, written by no step (log 1) -/
  cfg : Cfg
  /-- R21: the frame buffer `FB[0]`, `FB[1]`, `FB[2]` -/
  fb : Frame
  /-- R23: whether `FB` holds a value (log 3) -/
  fbHeld : Bool
  /-- R31: the level of the select output -/
  sel : Level
  /-- R32: the level of the reset output -/
  rst : Level
  /-- R24, R25: the phase whose action has not been done yet -/
  ph : Phase
  /-- R26: the index of the bring-up instruction byte being sent -/
  ix : Fin 14
  /-- R27: true while an `INIT` command runs -/
  ini : Bool
  /-- R30: the events emitted since reset, oldest first -/
  trace : List Event
  /-- MODEL'S OWN: what the host has still to issue, the next first (R157; log 5) -/
  host : List Request
  /-- MODEL'S OWN: the outside asks for a block reset now (R157; log 10) -/
  extReset : Bool
  /-- MODEL'S OWN: the frames returned by stand-alone calls of the Frame Codec, oldest first (log 7) -/
  codecOut : List Frame
  /-- MODEL'S OWN: the number of free values drawn so far (log 9) -/
  draws : Nat
  deriving DecidableEq, Repr

/-- What one step answers. -/
abbrev Result := Host.Outcome State Fault Refusal

/-- R36: the state after block reset under a configuration. -/
def State.launch (c : Cfg) : State where
  cfg := c
  fb := Config.unwrittenFrame 0
  fbHeld := false
  sel := c.sel0
  rst := c.rst0
  ph := .idle
  ix := 0
  ini := false
  trace := []
  host := []
  extReset := false
  codecOut := []
  draws := 1

/-- R36: the machine right after reset, with `Cfg` as given at launch. -/
def State.reset : State := State.launch Config.launch

end Sys2Proof.Machine
end

