-- ==== Sys2Proof/Machine/Operands.lean ====
section
/-! DEFINITION. Machine/Operands.lean: the nibbles of a source byte, the table read, the two mode markers. -/

namespace Sys2Proof.Machine

/-- R12, R86 (a): the low nibble of a byte, widened to a byte, `b & 0x0F`. -/
def lowNibble (b : Byte) : Byte := b &&& 0x0F#8

/-- R12, R86 (b): the high nibble of a byte, widened to a byte, the logical shift `b >> 4`. -/
def highNibble (b : Byte) : Byte := b >>> 4

/-- R15, R40: `InitOp(i)`, the read of one byte of the table; no index is out of bounds (R47). -/
def initOpAt (c : Cfg) (i : Fin 14) : Byte := c.initOp[i]

/-- R62: the kind of a transaction. -/
inductive Mode where
  | instr
  | data
  deriving DecidableEq, Repr

/-- R62: the marker is chosen by the kind of transaction and by nothing else. -/
def Mode.marker (c : Cfg) : Mode → Byte
  | .instr => c.markerInstr
  | .data => c.markerData

end Sys2Proof.Machine
end

