-- ==== Sys2Proof/Machine/Codec.lean ====
section
/-! DEFINITION. Machine/Codec.lean: the Frame Codec (40_frame_codec.md R80 to R82) and the meaning of the row `ENCODE`. -/

namespace Sys2Proof.Machine

/-- R80: `Encode(m, b)`. -/
def encodeFrame (m b : Byte) : Frame := ⟨m, lowNibble b, highNibble b⟩

/-- R82: `Extract(f)`, the source byte a receiver rebuilds; not in the block. -/
def extractByte (f : Frame) : Byte := ((f.b2 &&& 0x0F#8) <<< 4) ||| (f.b1 &&& 0x0F#8)

/-- R82: `Marker(f)`; not in the block. -/
def markerOf (f : Frame) : Byte := f.b0

/-- R80: one stand-alone call of the Frame Codec.  It returns the frame, which is added to `codecOut`; it reads and writes
no state of the block and emits no event (log 7). -/
def execEncode (m b : Byte) (s : State) : Result :=
  .next { s with codecOut := s.codecOut ++ [encodeFrame m b] }

end Sys2Proof.Machine
end

