-- ==== Sys2Proof/Machine/Flags.lean ====
section
/-! DEFINITION. Machine/Flags.lean: the one derived flag.  There are no condition codes (10_state.md R29). -/

namespace Sys2Proof.Machine

/-- R28: `BUSY = (PH ≠ IDLE)`, not stored. -/
def State.busy (s : State) : Bool := decide (s.ph ≠ .idle)

/-- R24: the 4-bit code of a phase. -/
def Phase.code : Phase → BitVec 4
  | .idle => 0
  | .rAssert => 1
  | .rPulse => 2
  | .rRelease => 3
  | .rSettle => 4
  | .iLoad => 5
  | .xDesel => 6
  | .xWait1 => 7
  | .xSel => 8
  | .xWait2 => 9
  | .xTx => 10
  | .iFinal => 11

end Sys2Proof.Machine
end

