-- ==== Sys2Proof/Machine/Ops.lean ====
section
/-! DEFINITION. Machine/Ops.lean: the primitives towards the collaborators (00_scope.md R16), accepting a command, block reset.
There is no exception to take and none to return from (60_exceptions.md R140, R145, R146). -/

namespace Sys2Proof.Machine

/-- R17: append an event to `TRACE`. -/
def State.emit (s : State) (e : Event) : State := { s with trace := s.trace ++ [e] }

/-- R25: set the phase. -/
def State.goto (s : State) (p : Phase) : State := { s with ph := p }

/-- R16: `SelWrite(l)`.  Always performed, also when the line has that level already (R49). -/
def State.selWrite (s : State) (l : Level) : State := { s with sel := l }.emit (.selW l)

/-- R16: `RstWrite(l)`. -/
def State.rstWrite (s : State) (l : Level) : State := { s with rst := l }.emit (.rstW l)

/-- R16, R151: `Delay(n)`, one event and nothing else; the model has no time (R177). -/
def State.delay (s : State) (n : Nat) : State := s.emit (.dly n)

/-- R16, R152: `Transmit(buf, len, timeout)` answered by `r`.  The answer was drawn by the caller; it is handed back and
latched nowhere (R33). -/
def State.transmit (s : State) (buf : Frame) (len timeout : Nat) (r : TxAnswer) : TxAnswer × State :=
  (r, { s with draws := s.draws + 1 }.emit (.tx buf.b0 buf.b1 buf.b2 len timeout))

/-- R21: a frame load writes all three bytes of `FB` at once. -/
def State.loadFrame (s : State) (f : Frame) : State := { s with fb := f, fbHeld := true }

/-- R90: the offered command is kept, unchanged, in front of what the host has still to issue. -/
def State.hold (s : State) (i : Instr) : State := { s with host := .word (encodeInstr i) :: s.host }

/-- R28, R90: a command is accepted only in `IDLE`, in one step that does `effect`; offered while the block is busy it is
neither accepted nor lost (log 6). -/
def acceptInIdle (i : Instr) (effect : State → State) (s : State) : Result :=
  if s.busy then .next (s.hold i) else .next (effect s)

/-- R36, R163: block reset.  The trace starts anew, the rest of a command in flight is not performed; `cfg` and what the
host has still to issue are no state of the block (log 10). -/
def State.blockReset (s : State) : State :=
  { s with
    fb := Config.unwrittenFrame s.draws
    fbHeld := false
    sel := s.cfg.sel0
    rst := s.cfg.rst0
    ph := .idle
    ix := 0
    ini := false
    trace := []
    extReset := false
    codecOut := []
    draws := s.draws + 1 }

end Sys2Proof.Machine
end

