-- ==== Sys2Proof/Machine/Transaction.lean ====
section
/-! DEFINITION. Machine/Transaction.lean: `NOP`, `SENDI`, `SENDD` and the five phases of a bus transaction (41_bus_transaction.md). -/

namespace Sys2Proof.Machine

/-- The acceptance step of `SENDI` and `SENDD`: encode into `FB`, go to `X_DESEL`, no event (R92, R93). -/
def State.beginSend (m : Mode) (b : Byte) (s : State) : State :=
  (s.loadFrame (encodeFrame (m.marker s.cfg) b)).goto .xDesel

/-- R91: `NOP` does nothing. -/
def execNop (s : State) : Result := acceptInIdle .nop (fun s => s.goto .idle) s

/-- R92: `SENDI b`. -/
def execSendi (b : Byte) (s : State) : Result := acceptInIdle (.sendi b) (State.beginSend .instr b) s

/-- R93: `SENDD b`. -/
def execSendd (b : Byte) (s : State) : Result := acceptInIdle (.sendd b) (State.beginSend .data b) s

/-- R94: phase `X_DESEL`. -/
def phaseXDesel (s : State) : State := (s.selWrite SELECT_ACTIVE.other).goto .xWait1

/-- R95: phase `X_WAIT1`. -/
def phaseXWait1 (s : State) : State := (s.delay s.cfg.tSelHigh).goto .xSel

/-- R96: phase `X_SEL`. -/
def phaseXSel (s : State) : State := (s.selWrite SELECT_ACTIVE).goto .xWait2

/-- R97: phase `X_WAIT2`. -/
def phaseXWait2 (s : State) : State := (s.delay s.cfg.tSelLow).goto .xTx

/-- R98, R117: the phase after `X_TX`, and the change of `IX` inside an `INIT` run. -/
def afterTransmit (s : State) : State :=
  if s.ini then
    if h : s.ix.val < 13 then { s with ix := ⟨s.ix.val + 1, by omega⟩ }.goto .iLoad
    else s.goto .iFinal
  else s.goto .idle

/-- R98: phase `X_TX` under the answer `r`; the answer is dropped (R99). -/
def phaseXTx (r : TxAnswer) (s : State) : State :=
  afterTransmit (s.transmit s.fb FRAME_LEN s.cfg.txTimeout r).2

end Sys2Proof.Machine
end

