-- ==== Sys2Proof/Machine/Initializer.lean ====
section
/-! DEFINITION. Machine/Initializer.lean: `INIT` and its own phases (42_display_init.md). -/

namespace Sys2Proof.Machine

/-- R111: the acceptance step of `INIT`. -/
def State.beginInit (s : State) : State := { s with ini := true, ix := 0 }.goto .rAssert

/-- R110: `INIT`. -/
def execInit (s : State) : Result := acceptInIdle .init State.beginInit s

/-- R112: phase `R_ASSERT`. -/
def phaseRAssert (s : State) : State := (s.rstWrite s.cfg.resetActive).goto .rPulse

/-- R113: phase `R_PULSE`; the event is emitted also for a delay of 0. -/
def phaseRPulse (s : State) : State := (s.delay s.cfg.tRstPulse).goto .rRelease

/-- R114: phase `R_RELEASE`. -/
def phaseRRelease (s : State) : State := (s.rstWrite s.cfg.resetActive.other).goto .rSettle

/-- R115: phase `R_SETTLE`. -/
def phaseRSettle (s : State) : State := (s.delay s.cfg.tRstSettle).goto .iLoad

/-- R116: phase `I_LOAD`. -/
def phaseILoad (s : State) : State :=
  (s.loadFrame (encodeFrame s.cfg.markerInstr (initOpAt s.cfg s.ix))).goto .xDesel

/-- R118: phase `I_FINAL`. -/
def phaseIFinal (s : State) : State :=
  { s.selWrite s.cfg.postInitSelect with ix := 0, ini := false }.goto .idle

end Sys2Proof.Machine
end

