-- ==== Sys2Proof/Machine/Dispatch.lean ====
section
/-! DEFINITION. Machine/Dispatch.lean: one arm per instruction. -/

namespace Sys2Proof.Machine

def exec (i : Instr) (s : State) : Host.Outcome State Fault Refusal :=
  match i with
  | .nop => Sys2Proof.Machine.execNop s
  | .sendi b => Sys2Proof.Machine.execSendi b s
  | .sendd b => Sys2Proof.Machine.execSendd b s
  | .init => Sys2Proof.Machine.execInit s
  | .encode m b => Sys2Proof.Machine.execEncode m b s

end Sys2Proof.Machine
end

