-- ==== Sys2Proof/Machine/Render.lean ====
section
/-! DEFINITION. Machine/Render.lean: the host-side pseudo-command `RENDER` (43_text_render_host.md) and the next word the host issues. -/

namespace Sys2Proof.Machine

/-- R131: `RowBase(row) = 0x80 + (row - 1) * 0x20`. -/
def rowBase (row : Nat) : Byte := BitVec.ofNat 8 (ROW_BASE + (row - 1) * ROW_STRIDE)

/-- R133: the bytes before the first zero byte; none when there is no zero byte. -/
def untilSentinel : List Byte → Option (List Byte)
  | [] => none
  | b :: rest => if b = 0#8 then some [] else (untilSentinel rest).map (b :: ·)

/-- R130: the row's base address and the data bytes of `RENDER row, seq`; refused outside its domain (R133, R135).
That the row is tested first, so that a bad row is what is reported when there is no sentinel either, is the model's choice
(DESIGN CHOICE, log 11). -/
def expandRender (row : Int) (seq : List Byte) : Except Refusal (Byte × List Byte) :=
  if 1 ≤ row ∧ row ≤ (N_ROWS : Int) then
    match untilSentinel seq with
    | some glyphs => .ok (rowBase row.toNat, glyphs)
    | none => .error .renderWithoutSentinel
  else .error (.renderRowOutOfRange row)

/-- R130: one `SENDD` for each data byte. -/
def glyphRequests (glyphs : List Byte) : List Request := glyphs.map fun c => .word (encodeInstr (.sendd c))

/-- What the host does next when the block is in `IDLE`. -/
inductive Issue where
  /-- nothing is left to issue: the block stays in `IDLE` (R90) -/
  | nothing
  /-- a pseudo-command outside its domain -/
  | refused (r : Refusal)
  /-- a word, and what is left to issue after it -/
  | offers (x : InstrWord) (rest : List Request)
  deriving DecidableEq, Repr

/-- R157, R130: a word is offered as it is; a `RENDER` is replaced by its expansion, of which the positioning `SENDI` is
offered first (log 11). -/
def nextIssue : List Request → Issue
  | [] => .nothing
  | .word x :: rest => .offers x rest
  | .render row seq :: rest =>
    match expandRender row seq with
    | .ok (base, glyphs) => .offers (encodeInstr (.sendi base)) (glyphRequests glyphs ++ rest)
    | .error r => .refused r

/-- The refusal of a word that is no instruction (log 8). -/
def refusalOf : DecodeError → Refusal
  | .upperNibbleNotZero w => .notACodecWord w

end Sys2Proof.Machine
end

