-- ==== Sys2Proof/Machine/Sequencer.lean ====
section
/-! DEFINITION. Machine/Sequencer.lean: the step of a busy block, one phase's action (10_state.md R24, R25). -/

namespace Sys2Proof.Machine

/-- R24, R25: do the action of the current phase and move on.  `X_TX` takes the transmitter's answer from the draws
(R35; log 9). -/
def phaseStep (s : State) : State :=
  match s.ph with
  | .idle => s
  | .rAssert => phaseRAssert s
  | .rPulse => phaseRPulse s
  | .rRelease => phaseRRelease s
  | .rSettle => phaseRSettle s
  | .iLoad => phaseILoad s
  | .xDesel => phaseXDesel s
  | .xWait1 => phaseXWait1 s
  | .xSel => phaseXSel s
  | .xWait2 => phaseXWait2 s
  | .xTx => phaseXTx (Config.txAnswer s.draws) s
  | .iFinal => phaseIFinal s

end Sys2Proof.Machine
end

