-- ==== Sys2Proof/Machine/Step.lean ====
section
/-! DEFINITION. Machine/Step.lean: one step of the block. -/

namespace Sys2Proof.Machine

/-- One step.  An external reset comes first (R157); a busy block does its phase (R25); an idle block accepts what the
host offers, or stays as it is (R90). -/
def step (s : State) : Host.Outcome State Fault Refusal :=
  if s.extReset then .next s.blockReset
  else if s.busy then .next (phaseStep s)
  else
    match nextIssue s.host with
    | .nothing => .next s
    | .refused r => .refused r
    | .offers x rest =>
      match decode x with
      | .ok i => exec i { s with host := rest }
      | .error e => .refused (refusalOf e)

/-- `s` with one instruction, numbered as the opcode table numbers it, offered by the host and the block in its resting
state, so that the next step runs it (log 5, log 14).  A number that is no word of the table is stored nowhere. -/
def State.withFetchWord (s : State) (nbits w : Nat) : State :=
  match tableWord nbits w with
  | none => s
  | some x => { s with host := .word x :: s.host, extReset := false, ph := .idle, ix := 0, ini := false }

end Sys2Proof.Machine
end

