-- ==== Sys2Proof/Machine/Ports.lean ====
section
/-! DEFINITION. Machine/Ports.lean: the informative ports, outputs and inputs (10_state.md R39; log 16). -/

namespace Sys2Proof.Machine

/-- R39: the output ports.  `dlyReq` and `dlyN` are one field: the count while `Delay` is called. -/
structure Outputs where
  cmdReady : Bool
  sel : Level
  rst : Level
  txReq : Bool
  txBuf : BitVec 24
  txLen : Nat
  txTimeout : Nat
  dlyReq : Option Nat
  deriving DecidableEq, Repr

/-- R39: the delay a phase calls for, if it calls `Delay`. -/
def delayOf (c : Cfg) : Phase → Option Nat
  | .idle => none
  | .rAssert => none
  | .rPulse => some c.tRstPulse
  | .rRelease => none
  | .rSettle => some c.tRstSettle
  | .iLoad => none
  | .xDesel => none
  | .xWait1 => some c.tSelHigh
  | .xSel => none
  | .xWait2 => some c.tSelLow
  | .xTx => none
  | .iFinal => none

/-- R39: the ports as a function of the state; `tx_buf` is `FB[2], FB[1], FB[0]` from the high bits down. -/
def State.outputs (s : State) : Outputs where
  cmdReady := !s.busy
  sel := s.sel
  rst := s.rst
  txReq := decide (s.ph = .xTx)
  txBuf := s.fb.b2.setWidth 24 <<< 16 ||| s.fb.b1.setWidth 24 <<< 8 ||| s.fb.b0.setWidth 24
  txLen := FRAME_LEN
  txTimeout := s.cfg.txTimeout
  dlyReq := delayOf s.cfg s.ph

/-- R39: the input ports.  A port of data (`cmd_word`, `tx_ok`) has a value while its hand-over is up, and none otherwise
(log 16). -/
structure Inputs where
  cmdValid : Bool
  cmdWord : Option (BitVec 10)
  txDone : Bool
  txOk : Option Bool
  dlyDone : Bool
  deriving DecidableEq, Repr

/-- R39, R68: the command word among what the host offers; an `F3` word is no command. -/
def Issue.command : Issue → Option (BitVec 10)
  | .nothing => none
  | .refused _ => none
  | .offers (.cw w) _ => some w
  | .offers (.f3 _) _ => none

/-- R39: the ports as a function of the state.  Each primitive returns within the step that calls it (R16), so its answer
is up with its request; `tx_ok` is the answer that `X_TX` draws and drops (R35; log 9). -/
def State.inputs (s : State) : Inputs where
  cmdValid := (nextIssue s.host).command.isSome
  cmdWord := (nextIssue s.host).command
  txDone := s.outputs.txReq
  txOk := if s.outputs.txReq then some (decide (Config.txAnswer s.draws = .ok)) else none
  dlyDone := s.outputs.dlyReq.isSome

/-- R39: "a command is accepted when `cmd_valid` and `cmd_ready`". -/
def State.handsOver (s : State) : Bool := s.inputs.cmdValid && s.outputs.cmdReady

end Sys2Proof.Machine
end

