-- ==== Sys2Proof/Machine/Text.lean ====
section
/-! DEFINITION. Machine/Text.lean: the text form of commands (30_encoding.md R72 to R74; log 12), over lists of characters. -/

namespace Sys2Proof.Machine

/-- Why a line is refused. -/
inductive TextError where
  | unknownCommand
  | badOperand
  /-- R73: an operand outside 0 to 255 is refused -/
  | operandOutOfRange (n : Nat)
  | trailingText
  deriving DecidableEq, Repr

def isBlank (c : Char) : Bool := c == ' ' || c == '\t'

/-- R72: `;` starts a comment. -/
def startsComment (c : Char) : Bool := c == ';'

def isQuote (c : Char) : Bool := c.toNat == 39

def isDoubleQuote (c : Char) : Bool := c.toNat == 34

def skipBlanks : List Char → List Char
  | [] => []
  | c :: cs => if isBlank c then skipBlanks cs else c :: cs

/-- Nothing but blanks and a comment is left of the line. -/
def endOfLine (cs : List Char) : Bool :=
  match skipBlanks cs with
  | [] => true
  | c :: _ => startsComment c

/-- The characters up to the first blank or comment, and the rest. -/
def readWord : List Char → List Char × List Char
  | [] => ([], [])
  | c :: cs => if isBlank c || startsComment c then ([], c :: cs) else (c :: (readWord cs).1, (readWord cs).2)

def digitValue (base : Nat) (c : Char) : Option Nat :=
  let n := c.toNat
  if 48 ≤ n ∧ n ≤ 57 then some (n - 48)
  else if base = 16 ∧ 65 ≤ n ∧ n ≤ 70 then some (n - 55)
  else if base = 16 ∧ 97 ≤ n ∧ n ≤ 102 then some (n - 87)
  else none

def readDigits (base : Nat) : Nat → List Char → Nat × List Char
  | acc, [] => (acc, [])
  | acc, c :: cs =>
    match digitValue base c with
    | some d => readDigits base (acc * base + d) cs
    | none => (acc, c :: cs)

/-- R72: a decimal number, or a hexadecimal one after `0x`. -/
def readNumber : List Char → Option (Nat × List Char)
  | [] => none
  | [c] => (digitValue 10 c).map fun d => (d, [])
  | [c, x] => (digitValue 10 c).map fun d => readDigits 10 d [x]
  | c :: x :: y :: cs =>
    if c = '0' ∧ x = 'x' then (digitValue 16 y).map fun d => readDigits 16 d cs
    else (digitValue 10 c).map fun d => readDigits 10 d (x :: y :: cs)

/-- R72: a quoted character stands for its 7-bit ASCII code. -/
def charByte (c : Char) : Except TextError Byte :=
  if c.toNat < 128 then .ok (BitVec.ofNat 8 c.toNat) else .error .badOperand

/-- R72, R73: a byte operand, a number of 0 to 255. -/
def readNumericByte (cs : List Char) : Except TextError (Byte × List Char) :=
  match readNumber cs with
  | none => .error .badOperand
  | some (n, rest) => if n < 256 then .ok (BitVec.ofNat 8 n, rest) else .error (.operandOutOfRange n)

/-- R72: a byte operand, one character in single quotes or a number. -/
def readByte (cs : List Char) : Except TextError (Byte × List Char) :=
  match cs with
  | q :: c :: q' :: rest =>
    if isQuote q && isQuote q' then (charByte c).map fun b => (b, rest) else readNumericByte (q :: c :: q' :: rest)
  | short => readNumericByte short

/-- R74: the characters of a text up to its closing double quote; none of them is the zero byte. -/
def readText : List Char → Except TextError (List Byte × List Char)
  | [] => .error .badOperand
  | c :: cs =>
    if isDoubleQuote c then .ok ([], cs)
    else if c.toNat = 0 then .error .badOperand
    else
      match charByte c, readText cs with
      | .ok b, .ok (bs, rest) => .ok (b :: bs, rest)
      | .error e, _ => .error e
      | _, .error e => .error e

/-- A row, an integer (R130).  R74 gives its written form nowhere; that a row may be decimal, or hexadecimal after `0x`, and
may have a minus sign is the model's choice (DESIGN CHOICE, log 12). -/
def readRow (cs : List Char) : Option (Int × List Char) :=
  match cs with
  | [] => none
  | c :: rest =>
    if c = '-' then (readNumber rest).map fun p => (-(p.1 : Int), p.2)
    else (readNumber (c :: rest)).map fun p => ((p.1 : Int), p.2)

/-- R74: `<row>, "<text>"`; the ending sentinel is added. -/
def readRender (cs : List Char) : Except TextError (Request × List Char) :=
  match readRow (skipBlanks cs) with
  | none => .error .badOperand
  | some (row, afterRow) =>
    match skipBlanks afterRow with
    | [] => .error .badOperand
    | comma :: afterComma =>
      match skipBlanks afterComma with
      | [] => .error .badOperand
      | q :: text =>
        if comma = ',' ∧ isDoubleQuote q then (readText text).map fun p => (.render row (p.1 ++ [0#8]), p.2)
        else .error .badOperand

/-- The command a line begins with. -/
def readCommand (mnemonic operands : List Char) : Except TextError (Request × List Char) :=
  if mnemonic = ['N', 'O', 'P'] then .ok (.word (encodeInstr .nop), operands)
  else if mnemonic = ['I', 'N', 'I', 'T'] then .ok (.word (encodeInstr .init), operands)
  else if mnemonic = ['S', 'E', 'N', 'D', 'I'] then
    (readByte (skipBlanks operands)).map fun p => (.word (encodeInstr (.sendi p.1)), p.2)
  else if mnemonic = ['S', 'E', 'N', 'D', 'D'] then
    (readByte (skipBlanks operands)).map fun p => (.word (encodeInstr (.sendd p.1)), p.2)
  else if mnemonic = ['R', 'E', 'N', 'D', 'E', 'R'] then readRender operands
  else .error .unknownCommand

/-- R72: one command per line.  That a line may be empty, or hold only a comment, and is then no command is the model's choice
(DESIGN CHOICE, log 12). -/
def assembleLine (line : List Char) : Except TextError (Option Request) :=
  if endOfLine line then .ok none
  else
    match readCommand (readWord (skipBlanks line)).1 (readWord (skipBlanks line)).2 with
    | .error e => .error e
    | .ok (r, rest) => if endOfLine rest then .ok (some r) else .error .trailingText

/-- The lines of a text.  R72 does not say what ends a line; that `\n` alone does, so that a carriage return is a character of its
line and makes it refused outside a comment or quotes, is the model's choice (DESIGN CHOICE, log 12). -/
def linesOf : List Char → List (List Char)
  | [] => [[]]
  | c :: cs =>
    if c = '\n' then [] :: linesOf cs
    else
      match linesOf cs with
      | [] => [[c]]
      | line :: rest => (c :: line) :: rest

/-- The requests of the lines, or the error of the first line that has one (log 12). -/
def assembleLines : List (List Char) → Except TextError (List Request)
  | [] => .ok []
  | line :: rest =>
    match assembleLine line, assembleLines rest with
    | .ok (some r), .ok rs => .ok (r :: rs)
    | .ok none, .ok rs => .ok rs
    | .error e, _ => .error e
    | _, .error e => .error e

/-- R72: a program in text form. -/
def assemble (text : List Char) : Except TextError (List Request) := assembleLines (linesOf text)

/-- A hexadecimal digit, `A` to `F` as capitals (log 12). -/
def hexDigit (n : Nibble) : Char := if n < 10#4 then Char.ofNat (48 + n.toNat) else Char.ofNat (55 + n.toNat)

/-- `0x` and two capital hexadecimal digits.  R72 allows decimal, hexadecimal and a quoted character and R73 does not say
which a disassembler prints; this form is the model's choice (DESIGN CHOICE, log 12). -/
def hexByte (b : Byte) : List Char := ['0', 'x', hexDigit (b.extractLsb' 4 4), hexDigit (b.extractLsb' 0 4)]

/-- R73: the text of an instruction; `ENCODE` has none, it is no command.  One blank stands before the operand (log 12). -/
def textOf : Instr → Option (List Char)
  | .nop => some ['N', 'O', 'P']
  | .sendi b => some (['S', 'E', 'N', 'D', 'I', ' '] ++ hexByte b)
  | .sendd b => some (['S', 'E', 'N', 'D', 'D', ' '] ++ hexByte b)
  | .init => some ['I', 'N', 'I', 'T']
  | .encode _ _ => none

/-- R73: the disassembler of command words. -/
def disassemble (w : BitVec 10) : Option (List Char) := textOf (decodeCommand w)

end Sys2Proof.Machine
end

