-- ==== Sys2Proof/Safety.lean ====
section
/-! DEFINITION. Safety.lean: the terms statements use: runs, the closed forms of the traces (R100, R119, R132), the step counts
(R178), the invariants (R22, R26, R38, R65) and reachability. -/

namespace Sys2Proof.Machine

/-- `k` steps of the machine. -/
def run (k : Nat) (s : State) : Result := Sys2Proof.core.run k s

/-- R100: the trace of one transaction. -/
def txn (c : Cfg) (m b : Byte) : List Event :=
  [.selW .high, .dly c.tSelHigh, .selW .low, .dly c.tSelLow, .tx m (b &&& 0x0F#8) (b >>> 4) 3 c.txTimeout]

/-- R119: the transactions of the bring-up bytes. -/
def initTxns (c : Cfg) (ops : List Byte) : List Event := ops.flatMap (txn c c.markerInstr)

/-- R119: the trace of one `INIT`. -/
def initTrace (c : Cfg) : List Event :=
  [.rstW c.resetActive, .dly c.tRstPulse, .rstW c.resetActive.other, .dly c.tRstSettle]
    ++ initTxns c c.initOp.toList ++ [.selW c.postInitSelect]

/-- R132: the trace of one `RENDER` of a row's base address and its data bytes. -/
def renderTrace (c : Cfg) (base : Byte) (glyphs : List Byte) : List Event :=
  txn c c.markerInstr base ++ glyphs.flatMap (txn c c.markerData)

/-- R130: the frame `FB` holds after a `RENDER`, that of the last command issued. -/
def renderFrame (c : Cfg) (base : Byte) (glyphs : List Byte) : Frame :=
  match glyphs.getLast? with
  | none => encodeFrame c.markerInstr base
  | some b => encodeFrame c.markerData b

/-- R91 to R93, R110: the events a command appends. -/
def commandTrace (c : Cfg) : Instr → List Event
  | .nop => []
  | .sendi b => txn c c.markerInstr b
  | .sendd b => txn c c.markerData b
  | .init => initTrace c
  | .encode _ _ => []

/-- R178: the steps a command takes (for `ENCODE` the one step of the model's call, log 7). -/
def commandSteps : Instr → Nat
  | .nop => 1
  | .sendi _ => 6
  | .sendd _ => 6
  | .init => 90
  | .encode _ _ => 1

/-- R103, R121: the steps from a phase to `IDLE`. -/
def stepsToIdle (s : State) : Nat :=
  let loop := if s.ini then 6 * (13 - s.ix.val) + 1 else 0
  match s.ph with
  | .idle => 0
  | .rAssert => 89
  | .rPulse => 88
  | .rRelease => 87
  | .rSettle => 86
  | .iLoad => 6 + loop
  | .xDesel => 5 + loop
  | .xWait1 => 4 + loop
  | .xSel => 3 + loop
  | .xWait2 => 2 + loop
  | .xTx => 1 + loop
  | .iFinal => 1

/-- R24: the five phases of a transaction. -/
def Phase.inTransaction : Phase → Bool
  | .idle => false
  | .rAssert => false
  | .rPulse => false
  | .rRelease => false
  | .rSettle => false
  | .iLoad => false
  | .xDesel => true
  | .xWait1 => true
  | .xSel => true
  | .xWait2 => true
  | .xTx => true
  | .iFinal => false

/-- R38 (d): the four phases of the display reset pulse. -/
def Phase.inResetPulse : Phase → Bool
  | .idle => false
  | .rAssert => true
  | .rPulse => true
  | .rRelease => true
  | .rSettle => true
  | .iLoad => false
  | .xDesel => false
  | .xWait1 => false
  | .xSel => false
  | .xWait2 => false
  | .xTx => false
  | .iFinal => false

/-- R38 with R26 and R22: what every reachable state satisfies.  (R38 (c) is the type of `ix`.) -/
structure State.Inv (s : State) : Prop where
  /-- R38 (a) -/
  idle : s.ph = .idle → s.ix = 0 ∧ s.ini = false
  /-- R38 (b) -/
  initPhases : (s.ph.inResetPulse = true ∨ s.ph = .iLoad ∨ s.ph = .iFinal) → s.ini = true
  /-- R38 (d) -/
  pulse : s.ph.inResetPulse = true → s.ix = 0
  /-- R38 (e) -/
  final : s.ph = .iFinal → s.ix = 13
  /-- R38 (f), first half -/
  held : s.ph.inTransaction = true → s.fbHeld = true
  /-- R38 (f), second half -/
  initFrame : s.ph.inTransaction = true → s.ini = true → s.fb = encodeFrame s.cfg.markerInstr (initOpAt s.cfg s.ix)
  /-- R26: `IX` is 0 whenever `INI` is false -/
  ixZero : s.ini = false → s.ix = 0
  /-- R22: whenever `FB` holds a value, it is a frame `Encode` makes under one of the two markers -/
  frame : s.fbHeld = true → s.fb.wf s.cfg = true

/-- R30, R65: every transmit handed over three bytes, a frame the block can have made, and the timeout of `Cfg`. -/
def Event.wf (c : Cfg) : Event → Bool
  | .selW _ => true
  | .rstW _ => true
  | .dly _ => true
  | .tx f0 f1 f2 len timeout => (Frame.mk f0 f1 f2).wf c && len == 3 && timeout == c.txTimeout

/-- R30: the event is one of the kind `Tx`. -/
def Event.isTx : Event → Bool
  | .selW _ => false
  | .rstW _ => false
  | .dly _ => false
  | .tx _ _ _ _ _ => true

/-- R30: the event is one of the kind `RstW`. -/
def Event.isRstW : Event → Bool
  | .selW _ => false
  | .rstW _ => true
  | .dly _ => false
  | .tx _ _ _ _ _ => false

/-- R30: the event is one of the kind `SelW`. -/
def Event.isSelW : Event → Bool
  | .selW _ => true
  | .rstW _ => false
  | .dly _ => false
  | .tx _ _ _ _ _ => false

/-- R30: the event is one of the kind `Dly`. -/
def Event.isDly : Event → Bool
  | .selW _ => false
  | .rstW _ => false
  | .dly _ => true
  | .tx _ _ _ _ _ => false

/-- R31: the level the trace says was last written to the select line, `l` if none was. -/
def lastSel (l : Level) : List Event → Level
  | [] => l
  | .selW l' :: es => lastSel l' es
  | .rstW _ :: es => lastSel l es
  | .dly _ :: es => lastSel l es
  | .tx _ _ _ _ _ :: es => lastSel l es

/-- R32: the level the trace says was last written to the reset line, `l` if none was. -/
def lastRst (l : Level) : List Event → Level
  | [] => l
  | .rstW l' :: es => lastRst l' es
  | .selW _ :: es => lastRst l es
  | .dly _ :: es => lastRst l es
  | .tx _ _ _ _ _ :: es => lastRst l es

/-- The trace is the record of the lines: each register has the level of the last write, or its launch level (R31, R32,
R36). -/
def State.LinesMatchTrace (s : State) : Prop :=
  s.sel = lastSel s.cfg.sel0 s.trace ∧ s.rst = lastRst s.cfg.rst0 s.trace

/-- R157: what the outside can bring about from a state: steps, commands the host adds, a block reset at any moment, which may
start the host anew (R36; log 10). -/
inductive Reaches : State → State → Prop where
  | refl (s : State) : Reaches s s
  | step {s t u : State} : Reaches s t → Sys2Proof.Machine.step t = .next u → Reaches s u
  | issue {s t : State} (rs : List Request) : Reaches s t → Reaches s { t with host := t.host ++ rs }
  | askReset {s t : State} (rs : List Request) : Reaches s t → Reaches s { t with extReset := true, host := rs }

end Sys2Proof.Machine
end

