-- ==== Sys2Proof/Certificates/Slice0/Obligations.lean ====
section
/-! DEFINITION. Certificates/Slice0/Obligations.lean: the statements.  Each docstring names the rule it says; a decision D<n> named
there is the spec's own choice (92_eei_decisions.md), a log <n> the model's. -/

open Sys2Proof Sys2Proof.Machine

/-! ## Encoding -/

/-- 95_test_vectors.md V50 to V58 and V12: ten words written out from the encodings of R60 and R66 (D1, D6).  The last clause
is the model's: that a decoder refuses a word with a fixed bit of F3 set is DEDUCED from R60 and R85 (log 8). -/
def Obligations.ListedWordsDecodeAsTheSpecSays : Prop :=
  decode (.cw 0x000#10) = .ok .nop ∧ decode (.cw 0x0FF#10) = .ok .nop ∧
  decode (.cw 0x100#10) = .ok (.sendi 0x00#8) ∧ decode (.cw 0x180#10) = .ok (.sendi 0x80#8) ∧
  decode (.cw 0x1FF#10) = .ok (.sendi 0xFF#8) ∧ decode (.cw 0x200#10) = .ok (.sendd 0x00#8) ∧
  decode (.cw 0x2A5#10) = .ok (.sendd 0xA5#8) ∧ decode (.cw 0x300#10) = .ok .init ∧
  decode (.cw 0x3FF#10) = .ok .init ∧ decode (.f3 0x1F050A#24) = .ok (.encode 0x1F#8 0xA5#8) ∧
  decode (.f3 0x1FF50A#24) = .error (.upperNibbleNotZero 0x1FF50A#24)

/-- R67, R69 (D1, D19, D20): every one of the 1024 words spells one row, by match and mask, and the byte field is the operand
of the sends and ignored by the others. -/
def Obligations.EveryCommandWordSpellsItsCommand : Prop :=
  ∀ w : BitVec 10,
    (w &&& 0x300#10 = 0x000#10 → decode (.cw w) = .ok .nop) ∧
    (w &&& 0x300#10 = 0x100#10 → decode (.cw w) = .ok (.sendi (w.setWidth 8))) ∧
    (w &&& 0x300#10 = 0x200#10 → decode (.cw w) = .ok (.sendd (w.setWidth 8))) ∧
    (w &&& 0x300#10 = 0x300#10 → decode (.cw w) = .ok .init) ∧
    (w &&& 0x300#10 = 0x000#10 ∨ w &&& 0x300#10 = 0x100#10 ∨ w &&& 0x300#10 = 0x200#10 ∨ w &&& 0x300#10 = 0x300#10)

/-- Decoding an encoded instruction gives it back, with every operand at every value, as a word and as a number of the opcode
table. -/
def Obligations.DecodeOfEncodeIsTheInstruction : Prop :=
  ∀ i : Instr, i.wf = true →
    decode (encodeInstr i) = .ok i ∧
    decodeTableWord (if (encodeInstr i).width = 10 then 16 else 24) (encodeInstr i).toNat = some i

/-- The other direction: a word is lost only in the byte field that `NOP` and `INIT` ignore (R69, D20). -/
def Obligations.EncodeOfDecodeIsTheWord : Prop :=
  ∀ (x : InstrWord) (i : Instr), decode x = .ok i →
    encodeInstr i = x ∨ (i = .nop ∧ ∃ b : Byte, x = .cw (commandWord 0#2 b)) ∨ (i = .init ∧ ∃ b : Byte, x = .cw (commandWord 3#2 b))

/-- R72, R73 (D17): the text of a command word, alone or with any comment after it, is read back as that command's word with
the ignored byte field 0. -/
def Obligations.DisassembledTextAssemblesBack : Prop :=
  ∀ (w : BitVec 10) (comment : List Char), ∃ text : List Char,
    disassemble w = some text ∧
    assembleLine text = .ok (some (.word (encodeInstr (decodeCommand w)))) ∧
    assembleLine (text ++ ' ' :: ';' :: comment) = .ok (some (.word (encodeInstr (decodeCommand w))))

/-! ## The Frame Codec -/

/-- R63: both forms of the receiver's operand assembly hold for every frame `Encode` makes; that the unmasked one holds in
arithmetic of every width from 8 bits up is R83, inferred there from R80 and R81 with D6. -/
def Obligations.ReceiverRebuildsSourceByte : Prop :=
  ∀ (m b : Byte),
    ((encodeFrame m b).b1 &&& 0xF#8) ||| (((encodeFrame m b).b2 &&& 0xF#8) <<< 4) = b ∧
    (encodeFrame m b).b0 = m ∧
    ∀ n : Nat, 8 ≤ n →
      (encodeFrame m b).b1.setWidth n ||| ((encodeFrame m b).b2.setWidth n <<< 4) = b.setWidth n

/-- R82: `Extract` and `Marker`, defined on every frame; bits 7 to 4 of the second and third byte are ignored. -/
def Obligations.ExtractReadsTheLowNibbles : Prop :=
  ∀ f : Frame,
    (extractByte f).toNat = 16 * (f.b2.toNat % 16) + f.b1.toNat % 16 ∧ markerOf f = f.b0

/-- R85, inferred there from R80 and R65: the well-formed triples are the frames the block can have made, and `Encode` rebuilds
each. -/
def Obligations.WellFormedFramesAreTheEncodedOnes : Prop :=
  ∀ (c : Cfg) (f : Frame),
    (f.wf c = true ↔ ((f.b0 = c.markerInstr ∨ f.b0 = c.markerData) ∧ f.b1.toNat < 16 ∧ f.b2.toNat < 16)) ∧
    (f.wf c = true ↔ ∃ (m : Mode) (b : Byte), f = encodeFrame (m.marker c) b) ∧
    (f.wf c = true → encodeFrame f.b0 (extractByte f) = f)

/-- R84: `Encode` is injective, so under different markers the 512 frames are pairwise different. -/
def Obligations.EncodeIsInjective : Prop :=
  (∀ m b m' b' : Byte, encodeFrame m b = encodeFrame m' b' ↔ m = m' ∧ b = b') ∧
  ∀ (c : Cfg), c.wf = true → ∀ (k k' : Mode) (b b' : Byte),
    encodeFrame (k.marker c) b = encodeFrame (k'.marker c) b' → k = k' ∧ b = b'

/-- R86 (a) to (c): the nibbles are remainder and quotient by 16, and give the byte back without wrap. -/
def Obligations.NibblesAreRemainderAndQuotient : Prop :=
  ∀ m b : Byte,
    (encodeFrame m b).b1.toNat = b.toNat % 16 ∧ (encodeFrame m b).b2.toNat = b.toNat / 16 ∧
    b.toNat = 16 * (encodeFrame m b).b2.toNat + (encodeFrame m b).b1.toNat

/-! ## Accepting a command -/

/-- R91 (D19): `NOP` in `IDLE` changes nothing. -/
def Obligations.NopLeavesEverything : Prop :=
  ∀ s : State, s.ph = .idle → exec .nop s = .next s

/-- R92, the acceptance step: `FB <- Encode(MARKER_INSTR, b)`, `PH <- X_DESEL`, and nothing else. -/
def Obligations.SendiLoadsInstructionFrame : Prop :=
  ∀ (s : State) (b : Byte), s.ph = .idle →
    exec (.sendi b) s =
      .next { s with fb := ⟨s.cfg.markerInstr, b &&& 0x0F#8, b >>> 4⟩, fbHeld := true, ph := .xDesel }

/-- R93, the acceptance step: `FB <- Encode(MARKER_DATA, b)`, `PH <- X_DESEL`, and nothing else. -/
def Obligations.SenddLoadsDataFrame : Prop :=
  ∀ (s : State) (b : Byte), s.ph = .idle →
    exec (.sendd b) s =
      .next { s with fb := ⟨s.cfg.markerData, b &&& 0x0F#8, b >>> 4⟩, fbHeld := true, ph := .xDesel }

/-- R111 (D3): acceptance of `INIT`. -/
def Obligations.InitStartsTheResetPulse : Prop :=
  ∀ s : State, s.ph = .idle → exec .init s = .next { s with ini := true, ix := 0, ph := .rAssert }

/-- R80 (D6): the codec call returns `(m, b & 0x0F, b >> 4)` and writes no state of the block, in every state.  That the
table's row is run as an instruction and its result kept in `codecOut` is the model's choice (log 7). -/
def Obligations.EncodeReturnsTheFrame : Prop :=
  ∀ (s : State) (m b : Byte),
    exec (.encode m b) s = .next { s with codecOut := s.codecOut ++ [⟨m, b &&& 0x0F#8, b >>> 4⟩] }

/-- R28, R90 (D2): a command offered while the block is busy is neither accepted nor lost; that `exec` keeps it at the head
of `host` is the model's form of it (log 6). -/
def Obligations.BusyBlockKeepsOfferedCommand : Prop :=
  ∀ (s : State) (i : Instr), s.ph ≠ .idle → (∀ m b, i ≠ .encode m b) →
    exec i s = .next { s with host := .word (encodeInstr i) :: s.host }

/-- The frame of acceptance, over all instructions (R91 to R93, R111, R80): no line is driven, no event emitted, no
configuration changed; each field that may change is named with the instruction that may change it. -/
def Obligations.AcceptanceDrivesNoLineAndEmitsNothing : Prop :=
  ∀ (i : Instr) (s t : State), s.ph = .idle → exec i s = .next t →
    t.cfg = s.cfg ∧ t.sel = s.sel ∧ t.rst = s.rst ∧ t.trace = s.trace ∧ t.host = s.host ∧ t.extReset = s.extReset ∧
    t.draws = s.draws ∧
    ((∀ b, i ≠ .sendi b) → (∀ b, i ≠ .sendd b) → t.fb = s.fb ∧ t.fbHeld = s.fbHeld) ∧
    (i ≠ .init → t.ix = s.ix ∧ t.ini = s.ini) ∧
    ((∀ m b, i ≠ .encode m b) → t.codecOut = s.codecOut)

/-! ## The step -/

/-- An idle block runs the decoded word the host offers: the step is `exec` of it, with the word taken from `host`. -/
def Obligations.StepRunsTheDecodedInstruction : Prop :=
  ∀ (s : State) (x : InstrWord) (i : Instr) (rest : List Request),
    s.extReset = false → s.ph = .idle → s.host = .word x :: rest → decode x = .ok i →
    step s = exec i { s with host := rest }

/-- The word placed by `withFetchWord` is the one the next step runs, from every state (log 5, log 14). -/
def Obligations.PlacedWordRunsNext : Prop :=
  ∀ (s : State) (nbits w : Nat) (i : Instr), decodeTableWord nbits w = some i →
    step (s.withFetchWord nbits w) = exec i { s with extReset := false, ph := .idle, ix := 0, ini := false }

/-- R90 (D2): with nothing offered an idle block stays exactly as it is. -/
def Obligations.IdleBlockWaits : Prop :=
  ∀ s : State, s.extReset = false → s.ph = .idle → s.host = [] → step s = .next s

/-- R28, R90 (D2): while the block is busy, what the host offers is not looked at and is kept unchanged. -/
def Obligations.BusyBlockIgnoresTheHost : Prop :=
  ∀ s : State, s.extReset = false → s.ph ≠ .idle →
    ∃ t, step s = .next t ∧ t.host = s.host ∧ ∀ h : List Request, step { s with host := h } = .next { t with host := h }

/-- R94: phase `X_DESEL`. -/
def Obligations.DeselectPhase : Prop :=
  ∀ s : State, s.extReset = false → s.ph = .xDesel →
    step s = .next { s with sel := .high, trace := s.trace ++ [.selW .high], ph := .xWait1 }

/-- R96: phase `X_SEL`. -/
def Obligations.ReselectPhase : Prop :=
  ∀ s : State, s.extReset = false → s.ph = .xSel →
    step s = .next { s with sel := .low, trace := s.trace ++ [.selW .low], ph := .xWait2 }

/-- R95, R97 (D4): the two settle delays. -/
def Obligations.SettleDelayPhases : Prop :=
  ∀ s : State, s.extReset = false →
    (s.ph = .xWait1 → step s = .next { s with trace := s.trace ++ [.dly s.cfg.tSelHigh], ph := .xSel }) ∧
    (s.ph = .xWait2 → step s = .next { s with trace := s.trace ++ [.dly s.cfg.tSelLow], ph := .xTx })

/-- R98: phase `X_TX`, the same for every answer `r`.  The clause for `INI` true is R117 (D3); `draws` is the model's
counter (log 9). -/
def Obligations.TransmitPhase : Prop :=
  ∀ (s : State) (r : TxAnswer), s.extReset = false → s.ph = .xTx →
    step s = .next (phaseXTx r s) ∧
    ∀ t : State, t = { s with trace := s.trace ++ [.tx s.fb.b0 s.fb.b1 s.fb.b2 3 s.cfg.txTimeout], draws := s.draws + 1 } →
      (s.ini = false → step s = .next { t with ph := .idle }) ∧
      (s.ini = true → ∀ h : s.ix.val < 13, step s = .next { t with ix := ⟨s.ix.val + 1, by omega⟩, ph := .iLoad }) ∧
      (s.ini = true → s.ix = 13 → step s = .next { t with ph := .iFinal })

/-- R44: the three bytes of a frame are handed over in index order, marker, low nibble, high nibble, whatever the mode, the
command and the configuration. -/
def Obligations.FrameGoesOutMarkerLowHigh : Prop :=
  ∀ (s : State) (m b : Byte), s.extReset = false → s.ph = .xTx → s.fb = encodeFrame m b →
    ∃ t, step s = .next t ∧ t.trace = s.trace ++ [.tx m (b &&& 0x0F#8) (b >>> 4) 3 s.cfg.txTimeout]

/-- R99 (D7): whichever draws the transmitter's answers come from, a step does the same; only the counter differs. -/
def Obligations.TransmitAnswersAreDropped : Prop :=
  ∀ (s t : State) (n : Nat), s.extReset = false → step s = .next t →
    (∀ r r' : TxAnswer, phaseXTx r s = phaseXTx r' s) ∧
    ∃ t', step { s with draws := n } = .next t' ∧ { t' with draws := t.draws } = t

/-- R112 to R114 (D5): the reset pulse. -/
def Obligations.ResetPulsePhases : Prop :=
  ∀ s : State, s.extReset = false →
    (s.ph = .rAssert → step s = .next { s with rst := s.cfg.resetActive, trace := s.trace ++ [.rstW s.cfg.resetActive], ph := .rPulse }) ∧
    (s.ph = .rPulse → step s = .next { s with trace := s.trace ++ [.dly s.cfg.tRstPulse], ph := .rRelease }) ∧
    (s.ph = .rRelease → step s = .next { s with rst := s.cfg.resetActive.other, trace := s.trace ++ [.rstW s.cfg.resetActive.other], ph := .rSettle })

/-- R115: phase `R_SETTLE`. -/
def Obligations.ResetSettlePhase : Prop :=
  ∀ s : State, s.extReset = false → s.ph = .rSettle →
    step s = .next { s with trace := s.trace ++ [.dly s.cfg.tRstSettle], ph := .iLoad }

/-- R116 (D3): phase `I_LOAD`. -/
def Obligations.LoadPhaseFramesTheTableByte : Prop :=
  ∀ s : State, s.extReset = false → s.ph = .iLoad →
    step s = .next { s with fb := ⟨s.cfg.markerInstr, s.cfg.initOp[s.ix] &&& 0x0F#8, s.cfg.initOp[s.ix] >>> 4⟩, fbHeld := true, ph := .xDesel }

/-- R118 (D14): phase `I_FINAL`. -/
def Obligations.FinalSelectPhase : Prop :=
  ∀ s : State, s.extReset = false → s.ph = .iFinal →
    step s = .next { s with
      sel := s.cfg.postInitSelect, ix := 0, ini := false,
      trace := s.trace ++ [.selW s.cfg.postInitSelect], ph := .idle }

/-- R36, R163 (D8): block reset at any moment, also in mid-command.  The model's choices in it: what stands
in `FB` afterwards is a free value (log 3), the lines go back to the same two launch levels at every block reset (log 4,
DESIGN CHOICE, unsafe), and `host` is kept (log 10). -/
def Obligations.BlockResetAtAnyMoment : Prop :=
  ∀ s : State, s.extReset = true →
    ∃ t, step s = .next t ∧ t.ph = .idle ∧ t.ix = 0 ∧ t.ini = false ∧ t.busy = false ∧ t.fbHeld = false ∧
      t.sel = s.cfg.sel0 ∧ t.rst = s.cfg.rst0 ∧ t.trace = [] ∧ t.cfg = s.cfg ∧ t.host = s.host ∧ t.extReset = false

/-- R36, R161 (D8): the state after reset, under every configuration; nothing runs by itself from it. -/
def Obligations.LaunchStateIsIdleAndSilent : Prop :=
  (State.reset = State.launch Config.launch) ∧
  ∀ c : Cfg, (State.launch c).ph = .idle ∧ (State.launch c).ix = 0 ∧ (State.launch c).ini = false ∧
    (State.launch c).busy = false ∧ (State.launch c).fbHeld = false ∧ (State.launch c).sel = c.sel0 ∧
    (State.launch c).rst = c.rst0 ∧ (State.launch c).trace = [] ∧ (State.launch c).cfg = c ∧
    step (State.launch c) = .next (State.launch c)

/-- R11: the launch configuration meets the one constraint the document states, and its form leaves out no pair of different
markers (log 2). -/
def Obligations.LaunchMarkersDiffer : Prop :=
  Config.launch.wf = true ∧
  ∀ a b : Byte, a ≠ b → ∃ g : Fin 255, b = a + 1#8 + BitVec.ofNat 8 g.val

/-! ## What a step reads and writes -/

/-- R10: no command and no event changes `Cfg`, however long the machine lives and whatever the outside does. -/
def Obligations.CfgIsConstant : Prop :=
  ∀ s t : State, Reaches s t → t.cfg = s.cfg

/-- R31, R32 (D3, D13): `SEL` and `RST` are written in their own phases and nowhere else. -/
def Obligations.LinesAreWrittenInTheirPhasesOnly : Prop :=
  ∀ s t : State, s.extReset = false → step s = .next t →
    (s.ph ≠ .xDesel → s.ph ≠ .xSel → s.ph ≠ .iFinal → t.sel = s.sel) ∧
    (s.ph ≠ .rAssert → s.ph ≠ .rRelease → t.rst = s.rst)

/-- R30, R31, R32: no step reads the level of a line or the trace. -/
def Obligations.LinesAndTraceAreNeverRead : Prop :=
  ∀ (s t : State) (l l' : Level) (past : List Event), s.extReset = false → step s = .next t →
    ∃ t' es, step { s with sel := l, rst := l', trace := past } = .next t' ∧
      t.trace = s.trace ++ es ∧ t'.trace = past ++ es ∧
      { t' with sel := t.sel, rst := t.rst, trace := t.trace } = t

/-- The two exclusions of R21: `FB` is changed at the acceptance of `SENDI` or `SENDD` and in `I_LOAD` and by no other step, and no
step outside `X_TX` reads it.  That all three bytes are written at once there, and that `X_TX` reads them, is said by the
statements of those steps; `fbHeld` is the model's field (log 3). -/
def Obligations.FrameBufferWritersAndReader : Prop :=
  ∀ s t : State, s.extReset = false → step s = .next t →
    ((t.fb ≠ s.fb ∨ t.fbHeld ≠ s.fbHeld) →
      s.ph = .iLoad ∨ (s.ph = .idle ∧ ∃ x rest b, nextIssue s.host = .offers x rest ∧
        (decode x = .ok (.sendi b) ∨ decode x = .ok (.sendd b)))) ∧
    (s.ph ≠ .xTx → ∀ f : Frame, ∃ t', step { s with fb := f } = .next t' ∧ { t' with fb := t.fb } = t)

/-- R27 (D3): `INI` goes up at the acceptance of `INIT` only and down in `I_FINAL` only, and is read in `X_TX` only. -/
def Obligations.InitFlagWritersAndReader : Prop :=
  ∀ s t : State, s.extReset = false → step s = .next t →
    (s.ini = false → t.ini = true → s.ph = .idle ∧ ∃ x rest, nextIssue s.host = .offers x rest ∧ decode x = .ok .init) ∧
    (s.ini = true → t.ini = false → s.ph = .iFinal) ∧
    (s.ph ≠ .xTx → ∀ b : Bool, ∃ t', step { s with ini := b } = .next t' ∧ { t' with ini := t.ini } = t)

/-- R25 (D3): out of a busy phase the next phase, `IX` and `INI` are a function of `(PH, INI, IX)` only. -/
def Obligations.SequencerDependsOnItselfOnly : Prop :=
  ∀ s s' : State, s.extReset = false → s'.extReset = false → s.ph ≠ .idle →
    s'.ph = s.ph → s'.ini = s.ini → s'.ix = s.ix →
    ∃ t t', step s = .next t ∧ step s' = .next t' ∧ t'.ph = t.ph ∧ t'.ini = t.ini ∧ t'.ix = t.ix

/-- R30, R51 (D9, D22): the trace only grows, by at most one event a step, and by exactly one in every busy phase but
`I_LOAD`. -/
def Obligations.TraceGrowsByOneEvent : Prop :=
  ∀ s t : State, s.extReset = false → step s = .next t →
    ∃ es, t.trace = s.trace ++ es ∧ es.length = (if s.ph = .idle ∨ s.ph = .iLoad then 0 else 1)

/-- R140, R149: the block never stops of itself; a step is refused exactly on what the host offers, by name (R133, R135 with
D18; for an `F3` word log 8).  That a `RENDER` with both a bad row and no sentinel is refused for its row is the model's choice
(log 11). -/
def Obligations.OnlyTheHostLayerIsRefused : Prop :=
  ∀ (s : State) (r : Refusal), step s = .refused r ↔
    s.extReset = false ∧ s.ph = .idle ∧
    ((∃ row seq rest, s.host = .render row seq :: rest ∧
        ((¬ (1 ≤ row ∧ row ≤ 4) ∧ r = .renderRowOutOfRange row) ∨
         ((1 ≤ row ∧ row ≤ 4) ∧ 0#8 ∉ seq ∧ r = .renderWithoutSentinel))) ∨
     (∃ w rest, s.host = .word (.f3 w) :: rest ∧ (w.extractLsb' 12 4 ≠ 0#4 ∨ w.extractLsb' 4 4 ≠ 0#4) ∧
        r = .notACodecWord w))

/-- R149, R103: when the first request is one the spec admits, the step answers a next state. -/
def Obligations.AdmittedRequestsAlwaysStep : Prop :=
  ∀ s : State, (∀ q ∈ s.host.head?, q.wf = true) → ∃ t, step s = .next t

/-! ## Invariants -/

/-- R38, R26, R22 at launch. -/
def Obligations.PhaseInvariantAtLaunch : Prop :=
  ∀ c : Cfg, (State.launch c).Inv

/-- R38 with R26 and R22: every step keeps the invariant, from every state that has it. -/
def Obligations.StepKeepsPhaseInvariant : Prop :=
  ∀ s t : State, s.Inv → step s = .next t → t.Inv

/-- R38: in every state the outside can bring about from launch, under every configuration, the invariant holds. -/
def Obligations.PhaseInvariantInEveryReachableState : Prop :=
  ∀ (c : Cfg) (t : State), Reaches (State.launch c) t → t.Inv

/-- R22, R65, R30: every transmit carries a frame `Encode` makes under one of the two markers, length 3 and the timeout of
`Cfg`; every step keeps that. -/
def Obligations.StepKeepsTransmittedFramesWellFormed : Prop :=
  ∀ s t : State, s.Inv → (∀ e ∈ s.trace, e.wf s.cfg = true) → step s = .next t → ∀ e ∈ t.trace, e.wf t.cfg = true

/-- R31, R32, R36: each line register has the level last written in the trace, or its launch level; it holds at launch and
every step keeps it.  For a block reset this rests on the model's choice that the lines return to the same two levels at every
reset (log 4, DESIGN CHOICE, unsafe). -/
def Obligations.StepKeepsLinesMatchingTrace : Prop :=
  (∀ c : Cfg, (State.launch c).LinesMatchTrace) ∧
  ∀ s t : State, s.LinesMatchTrace → step s = .next t → t.LinesMatchTrace

/-! ## Whole commands -/

/-- R103, R121: every step of a busy block brings `IDLE` nearer by exactly one step. -/
def Obligations.BusyStepsCountDownToIdle : Prop :=
  ∀ s : State, s.Inv → s.extReset = false → s.ph ≠ .idle →
    ∃ t, step s = .next t ∧ stepsToIdle t + 1 = stepsToIdle s ∧ (t.ph = .idle ↔ stepsToIdle t = 0)

/-- R90, R103, R121: the wait ends: from every state with the invariant the block is in `IDLE` after `stepsToIdle` steps, at
most 89, and what the host offers is still there. -/
def Obligations.EveryRunningCommandEnds : Prop :=
  ∀ s : State, s.Inv → s.extReset = false →
    stepsToIdle s ≤ 89 ∧ ∃ t, run (stepsToIdle s) s = .next t ∧ t.ph = .idle ∧ t.host = s.host

/-- R92 (whole effect, spec's inference from R94 to R98 with D4), R100, R101: `SENDI b` from acceptance to its end.
`draws` is the model's counter (log 9). -/
def Obligations.SendiSendsOneInstructionFrame : Prop :=
  ∀ (s : State) (x : InstrWord) (b : Byte) (rest : List Request),
    s.Inv → s.extReset = false → s.ph = .idle → s.host = .word x :: rest → decode x = .ok (.sendi b) →
    run 6 s = .next { s with
      fb := encodeFrame s.cfg.markerInstr b, fbHeld := true, sel := .low,
      trace := s.trace ++ txn s.cfg s.cfg.markerInstr b, host := rest, draws := s.draws + 1 } ∧
    ∀ k, 0 < k → k < 6 → ∃ t, run k s = .next t ∧ t.busy = true

/-- R93 (whole effect, spec's inference from R94 to R98 with D4), R100, R101: `SENDD b` from acceptance to its end.
`draws` is the model's counter (log 9). -/
def Obligations.SenddSendsOneDataFrame : Prop :=
  ∀ (s : State) (x : InstrWord) (b : Byte) (rest : List Request),
    s.Inv → s.extReset = false → s.ph = .idle → s.host = .word x :: rest → decode x = .ok (.sendd b) →
    run 6 s = .next { s with
      fb := encodeFrame s.cfg.markerData b, fbHeld := true, sel := .low,
      trace := s.trace ++ txn s.cfg s.cfg.markerData b, host := rest, draws := s.draws + 1 } ∧
    ∀ k, 0 < k → k < 6 → ∃ t, run k s = .next t ∧ t.busy = true

/-- R110 (whole effect, spec's inference from R111 to R118 with D3, D5, D14), R119, R121: `INIT` from acceptance to its end.
`draws` is the model's counter (log 9). -/
def Obligations.InitRunsTheWholeSequence : Prop :=
  ∀ (s : State) (x : InstrWord) (rest : List Request),
    s.Inv → s.extReset = false → s.ph = .idle → s.host = .word x :: rest → decode x = .ok .init →
    run 90 s = .next { s with
      fb := encodeFrame s.cfg.markerInstr s.cfg.initOp[13], fbHeld := true,
      sel := s.cfg.postInitSelect, rst := s.cfg.resetActive.other,
      trace := s.trace ++ initTrace s.cfg, host := rest, draws := s.draws + 14 } ∧
    ∀ k, 0 < k → k < 90 → ∃ t, run k s = .next t ∧ t.busy = true

/-- R119: 75 events, 14 `Tx`, 2 `RstW`, 29 `SelW`, 30 `Dly`, and the k-th `Tx` at position 8 + 5k carries the k-th byte (R122:
in index order). -/
def Obligations.InitTraceHasSeventyFiveEvents : Prop :=
  ∀ c : Cfg,
    (initTrace c).length = 75 ∧
    (initTrace c).countP Event.isTx = 14 ∧
    (initTrace c).countP Event.isRstW = 2 ∧
    (initTrace c).countP Event.isSelW = 29 ∧
    (initTrace c).countP Event.isDly = 30 ∧
    ∀ k : Fin 14, (initTrace c)[8 + 5 * k.val]? =
      some (.tx c.markerInstr (c.initOp[k] &&& 0x0F#8) (c.initOp[k] >>> 4) 3 c.txTimeout)

/-- R120: two `INIT`s under one configuration, whatever ran before either, append the same events and leave the same
registers. -/
def Obligations.InitIsIdempotent : Prop :=
  ∀ (s s' : State) (x x' : InstrWord) (rest rest' : List Request),
    s.Inv → s'.Inv → s.extReset = false → s'.extReset = false → s.ph = .idle → s'.ph = .idle → s'.cfg = s.cfg →
    s.host = .word x :: rest → s'.host = .word x' :: rest' → decode x = .ok .init → decode x' = .ok .init →
    ∃ t t' es, run 90 s = .next t ∧ run 90 s' = .next t' ∧
      t.trace = s.trace ++ es ∧ t'.trace = s'.trace ++ es ∧ es.length = 75 ∧
      t'.fb = t.fb ∧ t'.fbHeld = t.fbHeld ∧ t'.sel = t.sel ∧ t'.rst = t.rst ∧ t'.ph = t.ph ∧ t'.ix = t.ix ∧ t'.ini = t.ini

/-- R52 (spec's inference from R28 and R51): commands are performed one at a time in the order the host issues them, none
merged, dropped or reordered, whatever words spell them (`NOP` and `INIT` with any byte field, R69); calls of the codec among
them append nothing (log 7). -/
def Obligations.CommandsArePerformedInOrder : Prop :=
  ∀ (words : List InstrWord) (cmds : List Instr) (s : State) (rest : List Request),
    s.Inv → s.extReset = false → s.ph = .idle →
    words.map decode = cmds.map Except.ok → s.host = words.map Request.word ++ rest →
    ∃ t, run (cmds.map commandSteps).sum s = .next t ∧ t.ph = .idle ∧ t.host = rest ∧ t.cfg = s.cfg ∧
      t.trace = s.trace ++ cmds.flatMap (commandTrace s.cfg)

/-! ## The pseudo-command RENDER -/

/-- R131: the four row base addresses, and the first thing a `RENDER` issues is its row's base address as an instruction
byte. -/
def Obligations.RowBaseAddresses : Prop :=
  rowBase 1 = 0x80#8 ∧ rowBase 2 = 0xA0#8 ∧ rowBase 3 = 0xC0#8 ∧ rowBase 4 = 0xE0#8 ∧
  ∀ (row : Nat), 1 ≤ row → row ≤ 4 →
    (rowBase row).toNat = 0x80 + (row - 1) * 0x20 ∧
    ∀ (seq : List Byte) (rest : List Request), 0#8 ∈ seq →
      ∃ later, nextIssue (.render row seq :: rest) = .offers (encodeInstr (.sendi (rowBase row))) later

/-- R134: the empty sequence issues the positioning `SENDI` and nothing else. -/
def Obligations.EmptyTextIssuesOnlyThePositioning : Prop :=
  ∀ (row : Nat) (junk : List Byte) (rest : List Request), 1 ≤ row → row ≤ 4 →
    nextIssue (.render row (0#8 :: junk) :: rest) = .offers (encodeInstr (.sendi (rowBase row))) rest

/-- R133: the first zero byte ends the sequence, is not sent itself and hides what follows it; a sequence without one is
refused. -/
def Obligations.FirstZeroByteEndsTheText : Prop :=
  ∀ (row : Nat) (glyphs junk : List Byte) (rest : List Request), 1 ≤ row → row ≤ 4 → 0#8 ∉ glyphs →
    nextIssue (.render row (glyphs ++ 0#8 :: junk) :: rest) =
      .offers (encodeInstr (.sendi (rowBase row))) (glyphs.map (fun c => .word (encodeInstr (.sendd c))) ++ rest) ∧
    nextIssue (.render row glyphs :: rest) = .refused .renderWithoutSentinel

/-- R130, R132, R133, R178: `RENDER` of `n` bytes before the first zero byte takes `6 × (1 + n)` steps and appends the
positioning instruction frame and `n` data frames, `FB` is left with the frame of the last command issued, and what stands
after the zero byte is not looked at. -/
def Obligations.RenderSendsPositionThenEachByte : Prop :=
  ∀ (s : State) (row : Nat) (glyphs junk : List Byte) (rest : List Request),
    s.Inv → s.extReset = false → s.ph = .idle → 1 ≤ row → row ≤ 4 → 0#8 ∉ glyphs →
    s.host = .render row (glyphs ++ 0#8 :: junk) :: rest →
    ∃ t, run (6 * (1 + glyphs.length)) s = .next t ∧ t.ph = .idle ∧ t.host = rest ∧ t.sel = .low ∧ t.rst = s.rst ∧
      t.fb = renderFrame s.cfg (rowBase row) glyphs ∧ t.fbHeld = true ∧ t.cfg = s.cfg ∧
      t.trace = s.trace ++ renderTrace s.cfg (rowBase row) glyphs ∧
      (renderTrace s.cfg (rowBase row) glyphs).length = 5 * (1 + glyphs.length)
end

