-- ==== Sys2Proof/Laws/Codec.lean ====
section
/-! SUPPORT. Laws/Codec.lean: the nibbles of a byte as numbers, and the codec's frame against the bit table of R60. -/

namespace Sys2Proof.Machine

theorem lowNibble_toNat (b : Byte) : (lowNibble b).toNat = b.toNat % 16 := by
  simpa [lowNibble] using Nat.and_two_pow_sub_one_eq_mod b.toNat 4

theorem highNibble_toNat (b : Byte) : (highNibble b).toNat = b.toNat / 16 := by
  simp [highNibble, Nat.shiftRight_eq_div_pow]

theorem lowNibble_lt (b : Byte) : (lowNibble b).toNat < 16 := by rw [lowNibble_toNat]; omega

theorem highNibble_lt (b : Byte) : (highNibble b).toNat < 16 := by
  rw [highNibble_toNat]; have := b.isLt; omega

@[simp] theorem encodeFrame_b0 (m b : Byte) : (encodeFrame m b).b0 = m := rfl
@[simp] theorem encodeFrame_b1 (m b : Byte) : (encodeFrame m b).b1 = lowNibble b := rfl
@[simp] theorem encodeFrame_b2 (m b : Byte) : (encodeFrame m b).b2 = highNibble b := rfl

/-- The encoder's `F3` word is the codec's frame in sending order (R60, R61, R80). -/
theorem f3Word_eq_encodeFrame (m b : Byte) :
    f3Word m b = (encodeFrame m b).b0.setWidth 24 <<< 16 ||| (encodeFrame m b).b1.setWidth 24 <<< 8
      ||| (encodeFrame m b).b2.setWidth 24 := by
  have hl : ∀ b : Byte, (b.extractLsb' 0 4).setWidth 24 = (lowNibble b).setWidth 24 := by decide
  have hh : ∀ b : Byte, (b.extractLsb' 4 4).setWidth 24 = (highNibble b).setWidth 24 := by decide
  simp only [f3Word, encodeFrame_b0, encodeFrame_b1, encodeFrame_b2, hl, hh]

/-- The fields of a command word (R66). -/
theorem opField_commandWord (op : BitVec 2) (b : Byte) : opField (commandWord op b) = op := by
  ext i hi
  simp [opField, commandWord, hi, show 8 + i < 10 by omega]

theorem byteField_commandWord (op : BitVec 2) (b : Byte) : byteField (commandWord op b) = b := by
  ext i hi
  simp [byteField, commandWord, hi, show i < 10 by omega]

theorem commandWord_fields (w : BitVec 10) : commandWord (opField w) (byteField w) = w := by
  ext i hi
  simp only [opField, byteField, commandWord]
  interval_cases i <;> simp

end Sys2Proof.Machine
end

