-- ==== Sys2Proof/Laws/State.lean ====
section
/-! SUPPORT. Laws/State.lean: what each named update of the state does to each field, each by rfl. -/

namespace Sys2Proof.Machine

@[simp] theorem State.emit_cfg (s : State) (e : Event) : (s.emit e).cfg = s.cfg := rfl
@[simp] theorem State.emit_fb (s : State) (e : Event) : (s.emit e).fb = s.fb := rfl
@[simp] theorem State.emit_fbHeld (s : State) (e : Event) : (s.emit e).fbHeld = s.fbHeld := rfl
@[simp] theorem State.emit_sel (s : State) (e : Event) : (s.emit e).sel = s.sel := rfl
@[simp] theorem State.emit_rst (s : State) (e : Event) : (s.emit e).rst = s.rst := rfl
@[simp] theorem State.emit_ph (s : State) (e : Event) : (s.emit e).ph = s.ph := rfl
@[simp] theorem State.emit_ix (s : State) (e : Event) : (s.emit e).ix = s.ix := rfl
@[simp] theorem State.emit_ini (s : State) (e : Event) : (s.emit e).ini = s.ini := rfl
@[simp] theorem State.emit_trace (s : State) (e : Event) : (s.emit e).trace = s.trace ++ [e] := rfl
@[simp] theorem State.emit_host (s : State) (e : Event) : (s.emit e).host = s.host := rfl
@[simp] theorem State.emit_extReset (s : State) (e : Event) : (s.emit e).extReset = s.extReset := rfl
@[simp] theorem State.emit_codecOut (s : State) (e : Event) : (s.emit e).codecOut = s.codecOut := rfl
@[simp] theorem State.emit_draws (s : State) (e : Event) : (s.emit e).draws = s.draws := rfl

@[simp] theorem State.goto_cfg (s : State) (p : Phase) : (s.goto p).cfg = s.cfg := rfl
@[simp] theorem State.goto_fb (s : State) (p : Phase) : (s.goto p).fb = s.fb := rfl
@[simp] theorem State.goto_fbHeld (s : State) (p : Phase) : (s.goto p).fbHeld = s.fbHeld := rfl
@[simp] theorem State.goto_sel (s : State) (p : Phase) : (s.goto p).sel = s.sel := rfl
@[simp] theorem State.goto_rst (s : State) (p : Phase) : (s.goto p).rst = s.rst := rfl
@[simp] theorem State.goto_ph (s : State) (p : Phase) : (s.goto p).ph = p := rfl
@[simp] theorem State.goto_ix (s : State) (p : Phase) : (s.goto p).ix = s.ix := rfl
@[simp] theorem State.goto_ini (s : State) (p : Phase) : (s.goto p).ini = s.ini := rfl
@[simp] theorem State.goto_trace (s : State) (p : Phase) : (s.goto p).trace = s.trace := rfl
@[simp] theorem State.goto_host (s : State) (p : Phase) : (s.goto p).host = s.host := rfl
@[simp] theorem State.goto_extReset (s : State) (p : Phase) : (s.goto p).extReset = s.extReset := rfl
@[simp] theorem State.goto_codecOut (s : State) (p : Phase) : (s.goto p).codecOut = s.codecOut := rfl
@[simp] theorem State.goto_draws (s : State) (p : Phase) : (s.goto p).draws = s.draws := rfl

@[simp] theorem State.selWrite_cfg (s : State) (l : Level) : (s.selWrite l).cfg = s.cfg := rfl
@[simp] theorem State.selWrite_fb (s : State) (l : Level) : (s.selWrite l).fb = s.fb := rfl
@[simp] theorem State.selWrite_fbHeld (s : State) (l : Level) : (s.selWrite l).fbHeld = s.fbHeld := rfl
@[simp] theorem State.selWrite_sel (s : State) (l : Level) : (s.selWrite l).sel = l := rfl
@[simp] theorem State.selWrite_rst (s : State) (l : Level) : (s.selWrite l).rst = s.rst := rfl
@[simp] theorem State.selWrite_ph (s : State) (l : Level) : (s.selWrite l).ph = s.ph := rfl
@[simp] theorem State.selWrite_ix (s : State) (l : Level) : (s.selWrite l).ix = s.ix := rfl
@[simp] theorem State.selWrite_ini (s : State) (l : Level) : (s.selWrite l).ini = s.ini := rfl
@[simp] theorem State.selWrite_trace (s : State) (l : Level) : (s.selWrite l).trace = s.trace ++ [.selW l] := rfl
@[simp] theorem State.selWrite_host (s : State) (l : Level) : (s.selWrite l).host = s.host := rfl
@[simp] theorem State.selWrite_extReset (s : State) (l : Level) : (s.selWrite l).extReset = s.extReset := rfl
@[simp] theorem State.selWrite_codecOut (s : State) (l : Level) : (s.selWrite l).codecOut = s.codecOut := rfl
@[simp] theorem State.selWrite_draws (s : State) (l : Level) : (s.selWrite l).draws = s.draws := rfl

@[simp] theorem State.rstWrite_cfg (s : State) (l : Level) : (s.rstWrite l).cfg = s.cfg := rfl
@[simp] theorem State.rstWrite_fb (s : State) (l : Level) : (s.rstWrite l).fb = s.fb := rfl
@[simp] theorem State.rstWrite_fbHeld (s : State) (l : Level) : (s.rstWrite l).fbHeld = s.fbHeld := rfl
@[simp] theorem State.rstWrite_sel (s : State) (l : Level) : (s.rstWrite l).sel = s.sel := rfl
@[simp] theorem State.rstWrite_rst (s : State) (l : Level) : (s.rstWrite l).rst = l := rfl
@[simp] theorem State.rstWrite_ph (s : State) (l : Level) : (s.rstWrite l).ph = s.ph := rfl
@[simp] theorem State.rstWrite_ix (s : State) (l : Level) : (s.rstWrite l).ix = s.ix := rfl
@[simp] theorem State.rstWrite_ini (s : State) (l : Level) : (s.rstWrite l).ini = s.ini := rfl
@[simp] theorem State.rstWrite_trace (s : State) (l : Level) : (s.rstWrite l).trace = s.trace ++ [.rstW l] := rfl
@[simp] theorem State.rstWrite_host (s : State) (l : Level) : (s.rstWrite l).host = s.host := rfl
@[simp] theorem State.rstWrite_extReset (s : State) (l : Level) : (s.rstWrite l).extReset = s.extReset := rfl
@[simp] theorem State.rstWrite_codecOut (s : State) (l : Level) : (s.rstWrite l).codecOut = s.codecOut := rfl
@[simp] theorem State.rstWrite_draws (s : State) (l : Level) : (s.rstWrite l).draws = s.draws := rfl

@[simp] theorem State.delay_cfg (s : State) (n : Nat) : (s.delay n).cfg = s.cfg := rfl
@[simp] theorem State.delay_fb (s : State) (n : Nat) : (s.delay n).fb = s.fb := rfl
@[simp] theorem State.delay_fbHeld (s : State) (n : Nat) : (s.delay n).fbHeld = s.fbHeld := rfl
@[simp] theorem State.delay_sel (s : State) (n : Nat) : (s.delay n).sel = s.sel := rfl
@[simp] theorem State.delay_rst (s : State) (n : Nat) : (s.delay n).rst = s.rst := rfl
@[simp] theorem State.delay_ph (s : State) (n : Nat) : (s.delay n).ph = s.ph := rfl
@[simp] theorem State.delay_ix (s : State) (n : Nat) : (s.delay n).ix = s.ix := rfl
@[simp] theorem State.delay_ini (s : State) (n : Nat) : (s.delay n).ini = s.ini := rfl
@[simp] theorem State.delay_trace (s : State) (n : Nat) : (s.delay n).trace = s.trace ++ [.dly n] := rfl
@[simp] theorem State.delay_host (s : State) (n : Nat) : (s.delay n).host = s.host := rfl
@[simp] theorem State.delay_extReset (s : State) (n : Nat) : (s.delay n).extReset = s.extReset := rfl
@[simp] theorem State.delay_codecOut (s : State) (n : Nat) : (s.delay n).codecOut = s.codecOut := rfl
@[simp] theorem State.delay_draws (s : State) (n : Nat) : (s.delay n).draws = s.draws := rfl

@[simp] theorem State.transmit_cfg (s : State) (f : Frame) (n m : Nat) (r : TxAnswer) : (s.transmit f n m r).2.cfg = s.cfg := rfl
@[simp] theorem State.transmit_fb (s : State) (f : Frame) (n m : Nat) (r : TxAnswer) : (s.transmit f n m r).2.fb = s.fb := rfl
@[simp] theorem State.transmit_fbHeld (s : State) (f : Frame) (n m : Nat) (r : TxAnswer) : (s.transmit f n m r).2.fbHeld = s.fbHeld := rfl
@[simp] theorem State.transmit_sel (s : State) (f : Frame) (n m : Nat) (r : TxAnswer) : (s.transmit f n m r).2.sel = s.sel := rfl
@[simp] theorem State.transmit_rst (s : State) (f : Frame) (n m : Nat) (r : TxAnswer) : (s.transmit f n m r).2.rst = s.rst := rfl
@[simp] theorem State.transmit_ph (s : State) (f : Frame) (n m : Nat) (r : TxAnswer) : (s.transmit f n m r).2.ph = s.ph := rfl
@[simp] theorem State.transmit_ix (s : State) (f : Frame) (n m : Nat) (r : TxAnswer) : (s.transmit f n m r).2.ix = s.ix := rfl
@[simp] theorem State.transmit_ini (s : State) (f : Frame) (n m : Nat) (r : TxAnswer) : (s.transmit f n m r).2.ini = s.ini := rfl
@[simp] theorem State.transmit_trace (s : State) (f : Frame) (n m : Nat) (r : TxAnswer) : (s.transmit f n m r).2.trace = s.trace ++ [.tx f.b0 f.b1 f.b2 n m] := rfl
@[simp] theorem State.transmit_host (s : State) (f : Frame) (n m : Nat) (r : TxAnswer) : (s.transmit f n m r).2.host = s.host := rfl
@[simp] theorem State.transmit_extReset (s : State) (f : Frame) (n m : Nat) (r : TxAnswer) : (s.transmit f n m r).2.extReset = s.extReset := rfl
@[simp] theorem State.transmit_codecOut (s : State) (f : Frame) (n m : Nat) (r : TxAnswer) : (s.transmit f n m r).2.codecOut = s.codecOut := rfl
@[simp] theorem State.transmit_draws (s : State) (f : Frame) (n m : Nat) (r : TxAnswer) : (s.transmit f n m r).2.draws = s.draws + 1 := rfl

@[simp] theorem State.loadFrame_cfg (s : State) (f : Frame) : (s.loadFrame f).cfg = s.cfg := rfl
@[simp] theorem State.loadFrame_fb (s : State) (f : Frame) : (s.loadFrame f).fb = f := rfl
@[simp] theorem State.loadFrame_fbHeld (s : State) (f : Frame) : (s.loadFrame f).fbHeld = true := rfl
@[simp] theorem State.loadFrame_sel (s : State) (f : Frame) : (s.loadFrame f).sel = s.sel := rfl
@[simp] theorem State.loadFrame_rst (s : State) (f : Frame) : (s.loadFrame f).rst = s.rst := rfl
@[simp] theorem State.loadFrame_ph (s : State) (f : Frame) : (s.loadFrame f).ph = s.ph := rfl
@[simp] theorem State.loadFrame_ix (s : State) (f : Frame) : (s.loadFrame f).ix = s.ix := rfl
@[simp] theorem State.loadFrame_ini (s : State) (f : Frame) : (s.loadFrame f).ini = s.ini := rfl
@[simp] theorem State.loadFrame_trace (s : State) (f : Frame) : (s.loadFrame f).trace = s.trace := rfl
@[simp] theorem State.loadFrame_host (s : State) (f : Frame) : (s.loadFrame f).host = s.host := rfl
@[simp] theorem State.loadFrame_extReset (s : State) (f : Frame) : (s.loadFrame f).extReset = s.extReset := rfl
@[simp] theorem State.loadFrame_codecOut (s : State) (f : Frame) : (s.loadFrame f).codecOut = s.codecOut := rfl
@[simp] theorem State.loadFrame_draws (s : State) (f : Frame) : (s.loadFrame f).draws = s.draws := rfl

@[simp] theorem State.hold_cfg (s : State) (i : Instr) : (s.hold i).cfg = s.cfg := rfl
@[simp] theorem State.hold_fb (s : State) (i : Instr) : (s.hold i).fb = s.fb := rfl
@[simp] theorem State.hold_fbHeld (s : State) (i : Instr) : (s.hold i).fbHeld = s.fbHeld := rfl
@[simp] theorem State.hold_sel (s : State) (i : Instr) : (s.hold i).sel = s.sel := rfl
@[simp] theorem State.hold_rst (s : State) (i : Instr) : (s.hold i).rst = s.rst := rfl
@[simp] theorem State.hold_ph (s : State) (i : Instr) : (s.hold i).ph = s.ph := rfl
@[simp] theorem State.hold_ix (s : State) (i : Instr) : (s.hold i).ix = s.ix := rfl
@[simp] theorem State.hold_ini (s : State) (i : Instr) : (s.hold i).ini = s.ini := rfl
@[simp] theorem State.hold_trace (s : State) (i : Instr) : (s.hold i).trace = s.trace := rfl
@[simp] theorem State.hold_host (s : State) (i : Instr) : (s.hold i).host = .word (encodeInstr i) :: s.host := rfl
@[simp] theorem State.hold_extReset (s : State) (i : Instr) : (s.hold i).extReset = s.extReset := rfl
@[simp] theorem State.hold_codecOut (s : State) (i : Instr) : (s.hold i).codecOut = s.codecOut := rfl
@[simp] theorem State.hold_draws (s : State) (i : Instr) : (s.hold i).draws = s.draws := rfl

@[simp] theorem State.blockReset_cfg (s : State) : (s.blockReset).cfg = s.cfg := rfl
@[simp] theorem State.blockReset_fb (s : State) : (s.blockReset).fb = Config.unwrittenFrame s.draws := rfl
@[simp] theorem State.blockReset_fbHeld (s : State) : (s.blockReset).fbHeld = false := rfl
@[simp] theorem State.blockReset_sel (s : State) : (s.blockReset).sel = s.cfg.sel0 := rfl
@[simp] theorem State.blockReset_rst (s : State) : (s.blockReset).rst = s.cfg.rst0 := rfl
@[simp] theorem State.blockReset_ph (s : State) : (s.blockReset).ph = .idle := rfl
@[simp] theorem State.blockReset_ix (s : State) : (s.blockReset).ix = 0 := rfl
@[simp] theorem State.blockReset_ini (s : State) : (s.blockReset).ini = false := rfl
@[simp] theorem State.blockReset_trace (s : State) : (s.blockReset).trace = [] := rfl
@[simp] theorem State.blockReset_host (s : State) : (s.blockReset).host = s.host := rfl
@[simp] theorem State.blockReset_extReset (s : State) : (s.blockReset).extReset = false := rfl
@[simp] theorem State.blockReset_codecOut (s : State) : (s.blockReset).codecOut = [] := rfl
@[simp] theorem State.blockReset_draws (s : State) : (s.blockReset).draws = s.draws + 1 := rfl

@[simp] theorem State.launch_cfg (c : Cfg) : (State.launch c).cfg = c := rfl
@[simp] theorem State.launch_fbHeld (c : Cfg) : (State.launch c).fbHeld = false := rfl
@[simp] theorem State.launch_sel (c : Cfg) : (State.launch c).sel = c.sel0 := rfl
@[simp] theorem State.launch_rst (c : Cfg) : (State.launch c).rst = c.rst0 := rfl
@[simp] theorem State.launch_ph (c : Cfg) : (State.launch c).ph = .idle := rfl
@[simp] theorem State.launch_ix (c : Cfg) : (State.launch c).ix = 0 := rfl
@[simp] theorem State.launch_ini (c : Cfg) : (State.launch c).ini = false := rfl
@[simp] theorem State.launch_trace (c : Cfg) : (State.launch c).trace = [] := rfl
@[simp] theorem State.launch_host (c : Cfg) : (State.launch c).host = [] := rfl
@[simp] theorem State.launch_extReset (c : Cfg) : (State.launch c).extReset = false := rfl
@[simp] theorem State.launch_codecOut (c : Cfg) : (State.launch c).codecOut = [] := rfl
@[simp] theorem State.launch_draws (c : Cfg) : (State.launch c).draws = 1 := rfl

end Sys2Proof.Machine
end

