-- ==== Sys2Proof/Laws/Ops.lean ====
section
/-! SUPPORT. Laws/Ops.lean: one lemma for each shared operation, saying once what it can do. -/

namespace Sys2Proof.Machine

theorem State.busy_iff (s : State) : s.busy = true ↔ s.ph ≠ .idle := by simp [State.busy]

theorem State.not_busy_iff (s : State) : s.busy = false ↔ s.ph = .idle := by simp [State.busy]

theorem acceptInIdle_idle (i : Instr) (f : State → State) (s : State) (h : s.ph = .idle) :
    acceptInIdle i f s = .next (f s) := by simp [acceptInIdle, State.busy, h]

theorem acceptInIdle_busy (i : Instr) (f : State → State) (s : State) (h : s.ph ≠ .idle) :
    acceptInIdle i f s = .next (s.hold i) := by simp [acceptInIdle, State.busy, h]

/-- The answer of a transmit is in its first component only. -/
theorem State.transmit_snd (s : State) (f : Frame) (n m : Nat) (r r' : TxAnswer) :
    (s.transmit f n m r).2 = (s.transmit f n m r').2 := rfl

/-- Everything `afterTransmit` can do. -/
theorem afterTransmit_cases (s : State) :
    (s.ini = false ∧ afterTransmit s = s.goto .idle) ∨
    (s.ini = true ∧ ∃ h : s.ix.val < 13,
      afterTransmit s = { s with ix := ⟨s.ix.val + 1, by omega⟩, ph := .iLoad }) ∨
    (s.ini = true ∧ s.ix = 13 ∧ afterTransmit s = s.goto .iFinal) := by
  unfold afterTransmit
  cases hi : s.ini with
  | false => simp
  | true =>
    by_cases h : s.ix.val < 13
    · exact .inr (.inl ⟨rfl, h, by simp [h, State.goto]⟩)
    · refine .inr (.inr ⟨rfl, ?_, by simp [h]⟩)
      apply Fin.ext
      have := s.ix.isLt
      show s.ix.val = 13
      omega

/-- `afterTransmit` changes the phase and `IX` only. -/
theorem afterTransmit_frame (s : State) :
    ∃ p i, afterTransmit s = { s with ph := p, ix := i } := by
  rcases afterTransmit_cases s with ⟨_, h⟩ | ⟨_, _, h⟩ | ⟨_, _, h⟩ <;> exact ⟨_, _, h⟩

/-- Everything `exec` can answer for an idle block. -/
theorem exec_idle (i : Instr) (s : State) (h : s.ph = .idle) :
    exec i s = .next (match i with
      | .nop => s.goto .idle
      | .sendi b => s.beginSend .instr b
      | .sendd b => s.beginSend .data b
      | .init => s.beginInit
      | .encode m b => { s with codecOut := s.codecOut ++ [encodeFrame m b] }) := by
  cases i with
  | nop => exact acceptInIdle_idle .nop (fun s => s.goto .idle) s h
  | sendi b => exact acceptInIdle_idle (.sendi b) (State.beginSend .instr b) s h
  | sendd b => exact acceptInIdle_idle (.sendd b) (State.beginSend .data b) s h
  | init => exact acceptInIdle_idle .init State.beginInit s h
  | encode m b => rfl

/-- An instruction of an idle block always answers a next state. -/
theorem exec_idle_next (i : Instr) (s : State) (h : s.ph = .idle) : ∃ t, exec i s = .next t :=
  ⟨_, exec_idle i s h⟩

end Sys2Proof.Machine
end

