-- ==== Sys2Proof/Laws/PerInstr.lean ====
section
/-! SUPPORT. Laws/PerInstr.lean: a fact about each instruction as syntax: its encoded word spells its row of the opcode table and
no other row (30_encoding.md R67, R60). -/

namespace Sys2Proof.Laws.RowMatch

/-- The encoded word has the row's width and fixed bits, and spells no other row. -/
def Statement (i : Instr) : Prop :=
  ∀ r ∈ [rowNop, rowSendi, rowSendd, rowInit, rowEncode], r.spells (encodeInstr i) = true ↔ r = i.row

theorem nop : Statement .nop := by unfold Statement; decide

/-- The masked part of a command word is its operation field in place. -/
theorem commandWord_masked (op : BitVec 2) (b : Byte) : commandWord op b &&& 0x300#10 = op.setWidth 10 <<< 8 := by
  ext i hi
  simp only [commandWord]
  interval_cases i <;> simp

/-- A command word spells the row of its operation field and no other command row (R67). -/
theorem spells_cw (op : BitVec 2) (b : Byte) (r : OpcodeRow) (hw : r.width = 10) (hm : r.mask = 0x300) :
    r.spells (.cw (commandWord op b)) = true ↔ (op.setWidth 10 <<< 8 : BitVec 10).toNat = r.fixedBits := by
  have h := congrArg BitVec.toNat (commandWord_masked op b)
  rw [BitVec.toNat_and] at h
  simp only [OpcodeRow.spells, InstrWord.width, InstrWord.toNat, hw, hm, ← h]
  simp

theorem sendi (b : Byte) : Statement (.sendi b) := by
  intro r hr
  simp only [List.mem_cons, List.not_mem_nil, or_false] at hr
  rcases hr with rfl | rfl | rfl | rfl | rfl
  · exact (spells_cw 1#2 b rowNop rfl rfl).trans (by simp [rowSendi, rowNop, Instr.row])
  · exact (spells_cw 1#2 b rowSendi rfl rfl).trans (by simp [rowSendi, Instr.row])
  · exact (spells_cw 1#2 b rowSendd rfl rfl).trans (by simp [rowSendi, rowSendd, Instr.row])
  · exact (spells_cw 1#2 b rowInit rfl rfl).trans (by simp [rowSendi, rowInit, Instr.row])
  · exact ⟨fun h => by simp [OpcodeRow.spells, encodeInstr, InstrWord.width, rowEncode] at h, fun h => by simp [rowEncode, rowSendi, Instr.row] at h⟩

theorem sendd (b : Byte) : Statement (.sendd b) := by
  intro r hr
  simp only [List.mem_cons, List.not_mem_nil, or_false] at hr
  rcases hr with rfl | rfl | rfl | rfl | rfl
  · exact (spells_cw 2#2 b rowNop rfl rfl).trans (by simp [rowSendd, rowNop, Instr.row])
  · exact (spells_cw 2#2 b rowSendi rfl rfl).trans (by simp [rowSendi, rowSendd, Instr.row])
  · exact (spells_cw 2#2 b rowSendd rfl rfl).trans (by simp [rowSendd, Instr.row])
  · exact (spells_cw 2#2 b rowInit rfl rfl).trans (by simp [rowSendd, rowInit, Instr.row])
  · exact ⟨fun h => by simp [OpcodeRow.spells, encodeInstr, InstrWord.width, rowEncode] at h, fun h => by simp [rowEncode, rowSendd, Instr.row] at h⟩

theorem init : Statement .init := by unfold Statement; decide

/-- The fixed bits of format `F3` are clear in every encoded word. -/
theorem f3_fixed_clear (m b : Byte) : f3Word m b &&& 0x00F0F0#24 = 0#24 := by
  ext j hj
  simp only [f3Word]
  interval_cases j <;> simp

theorem encode (m b : Byte) : Statement (.encode m b) := by
  intro r hr
  have hfix : (f3Word m b).toNat &&& 0xF0F0 = 0 := by
    have := congrArg BitVec.toNat (f3_fixed_clear m b)
    simpa using this
  simp only [List.mem_cons, List.not_mem_nil, or_false] at hr
  rcases hr with rfl | rfl | rfl | rfl | rfl <;>
    simp [OpcodeRow.spells, encodeInstr, InstrWord.width, InstrWord.toNat, Instr.row, rowNop, rowSendi, rowSendd, rowInit,
      rowEncode, hfix]

end Sys2Proof.Laws.RowMatch
end

