-- ==== Sys2Proof/Laws/Sequencer.lean ====
section
/-! SUPPORT. Laws/Sequencer.lean: the record a busy step leaves, phase by phase, and all of them at once. -/

namespace Sys2Proof.Machine

variable {s : State}

theorem phaseStep_idle (h : s.ph = .idle) : phaseStep s = s := by simp only [phaseStep, h]

theorem phaseStep_rAssert (h : s.ph = .rAssert) :
    phaseStep s = { s with rst := s.cfg.resetActive, trace := s.trace ++ [.rstW s.cfg.resetActive], ph := .rPulse } := by
  simp only [phaseStep, h]; rfl

theorem phaseStep_rPulse (h : s.ph = .rPulse) :
    phaseStep s = { s with trace := s.trace ++ [.dly s.cfg.tRstPulse], ph := .rRelease } := by
  simp only [phaseStep, h]; rfl

theorem phaseStep_rRelease (h : s.ph = .rRelease) :
    phaseStep s = { s with
      rst := s.cfg.resetActive.other, trace := s.trace ++ [.rstW s.cfg.resetActive.other], ph := .rSettle } := by
  simp only [phaseStep, h]; rfl

theorem phaseStep_rSettle (h : s.ph = .rSettle) :
    phaseStep s = { s with trace := s.trace ++ [.dly s.cfg.tRstSettle], ph := .iLoad } := by
  simp only [phaseStep, h]; rfl

theorem phaseStep_iLoad (h : s.ph = .iLoad) :
    phaseStep s = { s with
      fb := encodeFrame s.cfg.markerInstr (initOpAt s.cfg s.ix), fbHeld := true, ph := .xDesel } := by
  simp only [phaseStep, h]; rfl

theorem phaseStep_xDesel (h : s.ph = .xDesel) :
    phaseStep s = { s with sel := .high, trace := s.trace ++ [.selW .high], ph := .xWait1 } := by
  simp only [phaseStep, h]; rfl

theorem phaseStep_xWait1 (h : s.ph = .xWait1) :
    phaseStep s = { s with trace := s.trace ++ [.dly s.cfg.tSelHigh], ph := .xSel } := by
  simp only [phaseStep, h]; rfl

theorem phaseStep_xSel (h : s.ph = .xSel) :
    phaseStep s = { s with sel := .low, trace := s.trace ++ [.selW .low], ph := .xWait2 } := by
  simp only [phaseStep, h]; rfl

theorem phaseStep_xWait2 (h : s.ph = .xWait2) :
    phaseStep s = { s with trace := s.trace ++ [.dly s.cfg.tSelLow], ph := .xTx } := by
  simp only [phaseStep, h]; rfl

/-- The state right after a transmit has returned, before the next phase is chosen. -/
def State.afterTx (s : State) : State :=
  { s with trace := s.trace ++ [.tx s.fb.b0 s.fb.b1 s.fb.b2 3 s.cfg.txTimeout], draws := s.draws + 1 }

theorem phaseStep_xTx (h : s.ph = .xTx) : phaseStep s = afterTransmit s.afterTx := by
  simp only [phaseStep, h]; rfl

theorem phaseStep_xTx_send (h : s.ph = .xTx) (hi : s.ini = false) :
    phaseStep s = { s.afterTx with ph := .idle } := by
  rw [phaseStep_xTx h]; simp [afterTransmit, State.afterTx, State.goto, hi]

theorem phaseStep_xTx_next (h : s.ph = .xTx) (hi : s.ini = true) (hx : s.ix.val < 13) :
    phaseStep s = { s.afterTx with ix := ⟨s.ix.val + 1, by omega⟩, ph := .iLoad } := by
  rw [phaseStep_xTx h]; simp [afterTransmit, State.afterTx, State.goto, hi, hx]

theorem phaseStep_xTx_last (h : s.ph = .xTx) (hi : s.ini = true) (hx : s.ix = 13) :
    phaseStep s = { s.afterTx with ph := .iFinal } := by
  rw [phaseStep_xTx h]; simp [afterTransmit, State.afterTx, State.goto, hi, hx]

theorem phaseStep_iFinal (h : s.ph = .iFinal) :
    phaseStep s = { s with
      sel := s.cfg.postInitSelect, ix := 0, ini := false,
      trace := s.trace ++ [.selW s.cfg.postInitSelect], ph := .idle } := by
  simp only [phaseStep, h]; rfl

/-- What no busy step changes. -/
theorem phaseStep_frame (s : State) :
    (phaseStep s).cfg = s.cfg ∧ (phaseStep s).host = s.host ∧ (phaseStep s).extReset = s.extReset ∧
      (phaseStep s).codecOut = s.codecOut := by
  cases h : s.ph with
  | idle => simp [phaseStep_idle h]
  | rAssert => simp [phaseStep_rAssert h]
  | rPulse => simp [phaseStep_rPulse h]
  | rRelease => simp [phaseStep_rRelease h]
  | rSettle => simp [phaseStep_rSettle h]
  | iLoad => simp [phaseStep_iLoad h]
  | xDesel => simp [phaseStep_xDesel h]
  | xWait1 => simp [phaseStep_xWait1 h]
  | xSel => simp [phaseStep_xSel h]
  | xWait2 => simp [phaseStep_xWait2 h]
  | xTx =>
    obtain ⟨p, i, e⟩ := afterTransmit_frame s.afterTx
    rw [phaseStep_xTx h, e]
    exact ⟨rfl, rfl, rfl, rfl⟩
  | iFinal => simp [phaseStep_iFinal h]

end Sys2Proof.Machine
end

