-- ==== Sys2Proof/Laws/Step.lean ====
section
/-! SUPPORT. Laws/Step.lean: the equations of a step and of a run. -/

namespace Sys2Proof.Machine

theorem step_extReset (s : State) (h : s.extReset = true) : step s = .next s.blockReset := by simp [step, h]

theorem step_busy (s : State) (hr : s.extReset = false) (h : s.ph ≠ .idle) : step s = .next (phaseStep s) := by
  simp [step, hr, State.busy, h]

theorem step_idle (s : State) (hr : s.extReset = false) (h : s.ph = .idle) :
    step s = match nextIssue s.host with
      | .nothing => .next s
      | .refused r => .refused r
      | .offers x rest =>
        match decode x with
        | .ok i => exec i { s with host := rest }
        | .error e => .refused (refusalOf e) :=
  (if_neg (by simp [hr])).trans (if_neg (by simp [State.busy, h]))

theorem step_offers (s : State) (x : InstrWord) (rest : List Request) (i : Instr) (hr : s.extReset = false)
    (h : s.ph = .idle) (hn : nextIssue s.host = .offers x rest) (hd : decode x = .ok i) :
    step s = exec i { s with host := rest } := by
  simp [step_idle s hr h, hn, hd]

/-- Everything a step can do when it answers a next state. -/
theorem step_cases {s t : State} (h : step s = .next t) :
    (s.extReset = true ∧ t = s.blockReset) ∨
    (s.extReset = false ∧ s.ph ≠ .idle ∧ t = phaseStep s) ∨
    (s.extReset = false ∧ s.ph = .idle ∧ nextIssue s.host = .nothing ∧ t = s) ∨
    (s.extReset = false ∧ s.ph = .idle ∧ ∃ x rest i, nextIssue s.host = .offers x rest ∧ decode x = .ok i ∧
      exec i { s with host := rest } = .next t) := by
  rcases Bool.eq_false_or_eq_true s.extReset with hr | hr
  · rw [step_extReset s hr] at h
    exact .inl ⟨hr, by cases h; rfl⟩
  by_cases hp : s.ph = .idle
  · rw [step_idle s hr hp] at h
    cases hn : nextIssue s.host with
    | nothing => rw [hn] at h; cases h; exact .inr (.inr (.inl ⟨hr, hp, rfl, rfl⟩))
    | refused r => rw [hn] at h; cases h
    | offers x rest =>
      rw [hn] at h
      cases hd : decode x with
      | ok i => simp only [hd] at h; exact .inr (.inr (.inr ⟨hr, hp, x, rest, i, rfl, hd, h⟩))
      | error e => simp only [hd] at h; cases h
  · rw [step_busy s hr hp] at h
    exact .inr (.inl ⟨hr, hp, by cases h; rfl⟩)

@[simp] theorem run_zero (s : State) : run 0 s = .next s := rfl

theorem run_succ {s t : State} (k : Nat) (h : step s = .next t) : run (k + 1) s = run k t := by
  show Host.Core.run Sys2Proof.core (k + 1) s = _
  have h' : Sys2Proof.core.step s = .next t := h
  simp only [Host.Core.run, h']
  rfl

/-- A run in two parts. -/
theorem run_add {j k : Nat} {s t : State} (h : run j s = .next t) : run (j + k) s = run k t := by
  induction j generalizing s with
  | zero => simp only [run_zero, Host.Outcome.next.injEq] at h; simp [h]
  | succ j ih =>
    have e : j + 1 + k = (j + k) + 1 := by omega
    cases hs : step s with
    | next u =>
      rw [run_succ j hs] at h
      rw [e, run_succ (j + k) hs]
      exact ih h
    | fault r => exact r.casesOn
    | refused r =>
      have h' : Sys2Proof.core.step s = .refused r := hs
      change Host.Core.run Sys2Proof.core (j + 1) s = _ at h
      simp only [Host.Core.run, h'] at h
      cases h

end Sys2Proof.Machine
end

