-- ==== Sys2Proof/Laws/Ports.lean ====
section
/-! SUPPORT. Laws/Ports.lean: the ports tell what the step does (10_state.md R39). -/

namespace Sys2Proof.Machine

/-- The hand-over of a command on the ports is its acceptance by the step. -/
theorem step_handsOver (s : State) (hr : s.extReset = false) (h : s.handsOver = true) :
    ∃ w rest, s.inputs.cmdWord = some w ∧ nextIssue s.host = .offers (.cw w) rest ∧
      step s = exec (decodeCommand w) { s with host := rest } := by
  obtain ⟨hv, hc⟩ := Bool.and_eq_true_iff.mp h
  have hp : s.ph = .idle := by simpa [State.outputs, State.busy] using hc
  have hv : (nextIssue s.host).command.isSome = true := hv
  cases hn : nextIssue s.host with
  | nothing => simp [hn, Issue.command] at hv
  | refused r => simp [hn, Issue.command] at hv
  | offers x rest =>
    cases x with
    | f3 w => simp [hn, Issue.command] at hv
    | cw w => exact ⟨w, rest, by simp [State.inputs, hn, Issue.command], rfl, step_offers s _ rest _ hr hp hn rfl⟩

/-- `tx_req` is up in `X_TX` only, and the step that has it up emits the call and takes the answer on `tx_ok`. -/
theorem step_txReq (s : State) (hr : s.extReset = false) (h : s.outputs.txReq = true) :
    s.inputs.txDone = true ∧ s.inputs.txOk = some (decide (Config.txAnswer s.draws = .ok)) ∧
      step s = .next (phaseXTx (Config.txAnswer s.draws) s) := by
  have hp : s.ph = .xTx := by simpa [State.outputs] using h
  refine ⟨h, by simp [State.inputs, h], ?_⟩
  rw [step_busy s hr (by simp [hp])]
  simp [phaseStep, hp]

end Sys2Proof.Machine
end

