-- ==== Sys2Proof/Tests/Slice0.lean ====
section
/-! SUPPORT. Tests/Slice0.lean: expected values from the spec's encodings and vectors (95_test_vectors.md), ill-formed terms refused,
and for each statement with hypotheses a witness that meets them. -/

namespace Sys2Proof.Tests

open Sys2Proof Sys2Proof.Machine

/-! ## The sample configuration and small states -/

/-- 95_test_vectors.md section 0, `SAMPLE`: made-up values, none claimed to be the original's (D24). -/
def sampleCfg (post : Level) : Cfg where
  markerInstr := 0x1F#8
  markerData := 0x5F#8
  initOp := #v[0x1E#8, 0x2D#8, 0x3C#8, 0x4B#8, 0x5A#8, 0x69#8, 0x78#8, 0x87#8, 0x96#8, 0xA5#8, 0xB4#8, 0xC3#8, 0xD2#8, 0xE1#8]
  tSelHigh := 11
  tSelLow := 12
  tRstPulse := 21
  tRstSettle := 22
  txTimeout := 9
  resetActive := .low
  postInitSelect := post
  sel0 := .high
  rst0 := .low

/-- An idle block with something to issue. -/
def idleWith (q : List Request) : State := { State.launch (sampleCfg .low) with fb := ⟨0x1F#8, 0#8, 0#8⟩, host := q }

/-- A block in a phase of an `INIT` run at an index, with its frame loaded. -/
def initAt (p : Phase) (i : Fin 14) : State :=
  { idleWith [] with
    ph := p, ini := true, ix := i, fbHeld := true, fb := encodeFrame 0x1F#8 (initOpAt (sampleCfg .low) i) }

/-- A block in a phase of `SENDD 0xA5`. -/
def sendAt (p : Phase) : State := { idleWith [] with ph := p, fbHeld := true, fb := ⟨0x5F#8, 0x05#8, 0x0A#8⟩ }

/-- The answer of a step has this property. -/
def nextHas (r : Result) (f : State → Bool) : Bool :=
  match r with
  | .next t => f t
  | .fault _ => false
  | .refused _ => false

/-- The refusal of a step. -/
def refusalIs (r : Result) (q : Refusal) : Bool :=
  match r with
  | .next _ => false
  | .fault _ => false
  | .refused q' => q' == q

/-! ## Decoding: words written out bit by bit from the encodings of R60 and R66 -/

-- V50, V51: op = 00, byte ignored
theorem test_decode_nop : decode (.cw 0b0011111111#10) = .ok .nop := by decide
-- V53: op = 01, b = 0x80
theorem test_decode_sendi : decode (.cw 0b0110000000#10) = .ok (.sendi 0x80#8) := by decide
-- V56: op = 10, b = 0xA5
theorem test_decode_sendd : decode (.cw 0b1010100101#10) = .ok (.sendd 0xA5#8) := by decide
-- V58: op = 11, byte ignored
theorem test_decode_init : decode (.cw 0b1111111111#10) = .ok .init := by decide
-- V12: frame (0x1F, 0x05, 0x0A), b = 0xA5, in sending order
theorem test_decode_encode : decode (.f3 0b000111110000010100001010#24) = .ok (.encode 0x1F#8 0xA5#8) := by decide
-- R60: bits 7 to 4 of the third byte are zero
theorem test_decode_refuses_upper_nibble : decode (.f3 0x1F051A#24) = .error (.upperNibbleNotZero 0x1F051A#24) := by decide
theorem test_tableWord_sendd : decodeTableWord 16 0x2A5 = some (.sendd 0xA5#8) := by decide
theorem test_tableWord_encode : decodeTableWord 24 0x1F050A = some (.encode 0x1F#8 0xA5#8) := by decide
-- R71: a command word has 10 bits
theorem test_tableWord_too_wide : decodeTableWord 16 0x400 = none := by decide
-- R73: the byte field of INIT is emitted as 0
theorem test_encode_init : encodeInstr .init = .cw 0x300#10 := by decide

/-! ## WellFormed: an ill-formed term for each check -/

-- V19e: byte 0 is no marker
theorem test_frame_wf_marker : Frame.wf (sampleCfg .low) ⟨0x00#8, 0x05#8, 0x0A#8⟩ = false := by decide
-- V19c: f[1] ≥ 16
theorem test_frame_wf_low : Frame.wf (sampleCfg .low) ⟨0x1F#8, 0xF5#8, 0x0A#8⟩ = false := by decide
-- V19d: f[2] ≥ 16
theorem test_frame_wf_high : Frame.wf (sampleCfg .low) ⟨0x1F#8, 0x05#8, 0x1A#8⟩ = false := by decide
-- V19a
theorem test_frame_wf_ok : Frame.wf (sampleCfg .low) ⟨0x1F#8, 0x05#8, 0x0A#8⟩ = true := by decide
theorem test_word_wf_low : InstrWord.wf (.f3 0x1FF50A#24) = false := by decide
theorem test_word_wf_high : InstrWord.wf (.f3 0x1F051A#24) = false := by decide
-- S3: rows 0, 5, -1 are refused
theorem test_request_wf_row : [0, 5, -1].map (fun r => Request.wf (.render r [0#8])) = [false, false, false] := by decide
-- R133: no sentinel
theorem test_request_wf_sentinel : Request.wf (.render 1 [0x41#8]) = false := by decide
-- R11: the markers differ
theorem test_cfg_wf : Cfg.wf { sampleCfg .low with markerData := 0x1F#8 } = false := by decide

/-! ## One step each, against the vectors -/

-- V16 and V10: corner bytes
theorem test_encodeFrame_ff : encodeFrame 0x5F#8 0xFF#8 = ⟨0x5F#8, 0x0F#8, 0x0F#8⟩ := by decide
theorem test_encodeFrame_80 : encodeFrame 0x1F#8 0x80#8 = ⟨0x1F#8, 0x00#8, 0x08#8⟩ := by decide
-- V19c: Extract masks the upper bits
theorem test_extract : extractByte ⟨0x1F#8, 0xF5#8, 0x0A#8⟩ = 0xA5#8 := by decide
-- V25
theorem test_nop : nextHas (step (idleWith [.word (.cw 0x0FF#10)])) (fun t => t == idleWith []) = true := by decide
-- V20, acceptance
theorem test_sendi : nextHas (step (idleWith [.word (.cw 0x138#10)]))
    (fun t => t.fb == ⟨0x1F#8, 0x08#8, 0x03#8⟩ && t.ph == .xDesel && t.trace == []) = true := by decide
-- V23, step 1
theorem test_sendd : nextHas (step (idleWith [.word (.cw 0x2A5#10)]))
    (fun t => t.fb == ⟨0x5F#8, 0x05#8, 0x0A#8⟩ && t.ph == .xDesel && t.sel == .high) = true := by decide
-- V33, step 1
theorem test_init : nextHas (step (idleWith [.word (.cw 0x3FF#10)]))
    (fun t => t.ph == .rAssert && t.ini && t.ix == 0 && t.trace == []) = true := by decide
-- V12: the codec call returns the frame and leaves FB alone
theorem test_encode : nextHas (step (idleWith [.word (.f3 0x1F050A#24)]))
    (fun t => t.codecOut == [⟨0x1F#8, 0x05#8, 0x0A#8⟩] && t.fb == (idleWith []).fb && t.ph == .idle) = true := by decide
-- V23, step 6
theorem test_xTx_send : nextHas (step (sendAt .xTx))
    (fun t => t.trace == [.tx 0x5F#8 0x05#8 0x0A#8 3 9] && t.ph == .idle) = true := by decide
-- V33, after step 11 and after step 89
theorem test_xTx_loops : nextHas (step (initAt .xTx 0)) (fun t => t.ph == .iLoad && t.ix == 1) = true := by decide
theorem test_xTx_ends : nextHas (step (initAt .xTx 13)) (fun t => t.ph == .iFinal && t.ix == 13) = true := by decide
-- V33, step 84
theorem test_iLoad : nextHas (step (initAt .iLoad 13))
    (fun t => t.fb == ⟨0x1F#8, 0x01#8, 0x0E#8⟩ && t.ph == .xDesel) = true := by decide
-- V33, steps 2 and 4
theorem test_rAssert : nextHas (step (initAt .rAssert 0)) (fun t => t.rst == .low && t.trace == [.rstW .low]) = true := by decide
theorem test_rRelease : nextHas (step (initAt .rRelease 0)) (fun t => t.rst == .high && t.ph == .rSettle) = true := by decide
-- V28: the write is made also when the line has the level already
theorem test_xDesel_always_writes : nextHas (step { sendAt .xDesel with sel := .high })
    (fun t => t.trace == [.selW .high]) = true := by decide
-- V31, position 74
theorem test_iFinal_high : nextHas (step { initAt .iFinal 13 with cfg := sampleCfg .high })
    (fun t => t.sel == .high && t.ix == 0 && !t.ini && t.ph == .idle) = true := by decide
-- V29: a command offered in X_WAIT2 is kept
theorem test_busy_holds : nextHas (step { sendAt .xWait2 with host := [.word (.cw 0x241#10)] })
    (fun t => t.host == [.word (.cw 0x241#10)] && t.ph == .xTx) = true := by decide
-- V40: RENDER 2, "Hi"
theorem test_render : nextIssue [.render 2 [0x48#8, 0x69#8, 0#8]]
    = .offers (.cw 0x1A0#10) [.word (.cw 0x248#10), .word (.cw 0x269#10)] := by decide
-- V43: nothing after the first zero byte is looked at
theorem test_render_sentinel : nextIssue [.render 1 [0x41#8, 0#8, 0x42#8, 0#8]]
    = .offers (.cw 0x180#10) [.word (.cw 0x241#10)] := by decide
-- V45
theorem test_render_row_refused :
    refusalIs (step (idleWith [.render 5 [0x78#8, 0#8]])) (.renderRowOutOfRange 5) = true := by decide
theorem test_render_sentinel_refused : refusalIs (step (idleWith [.render 4 [0x78#8]])) .renderWithoutSentinel = true := by decide
-- R163: block reset in mid-command
theorem test_block_reset : nextHas (step { initAt .xSel 7 with extReset := true })
    (fun t => t.ph == .idle && t.ix == 0 && !t.ini && t.sel == .high && t.trace == []) = true := by decide
-- R24
theorem test_phase_codes : (Phase.idle.code, Phase.iLoad.code, Phase.iFinal.code) = (0#4, 5#4, 11#4) := by decide
-- R39: byte 0 of tx_buf is in its low bits
theorem test_ports : (sendAt .xTx).outputs.txBuf = 0x0A055F#24 ∧ (sendAt .xTx).outputs.txReq = true
    ∧ (sendAt .xTx).outputs.cmdReady = false ∧ (sendAt .xWait1).outputs.dlyReq = some 11 := by decide
-- R39: a command offered to an idle block is handed over; a busy block is not ready
theorem test_ports_hand_over : (idleWith [.word (.cw 0x2A5#10)]).inputs.cmdWord = some 0x2A5#10
    ∧ (idleWith [.word (.cw 0x2A5#10)]).handsOver = true ∧ (idleWith []).handsOver = false ∧ (sendAt .xWait1).inputs.dlyDone = true
    ∧ ({ sendAt .xTx with host := [.word (.cw 0x2A5#10)] } : State).handsOver = false ∧ (sendAt .xTx).inputs.txDone = true := by decide

/-! ## The text form (R72 to R74) -/

-- P4 and P1: 0x2A5, 0x241, and a comment
theorem test_text_sendd : assembleLine "SENDD 0xA5 ; data".toList = .ok (some (.word (.cw 0x2A5#10))) := by decide
theorem test_text_quoted : assembleLine "SENDD 'A'".toList = .ok (some (.word (.cw 0x241#10))) := by decide
theorem test_text_decimal : assembleLine "  SENDI 128".toList = .ok (some (.word (.cw 0x180#10))) := by decide
-- R73: an operand outside 0 to 255 is refused
theorem test_text_range : assembleLine "SENDI 256".toList = .error (.operandOutOfRange 256) := by decide
theorem test_text_unknown : assembleLine "SENDX 1".toList = .error .unknownCommand := by decide
theorem test_text_trailing : assembleLine "INIT 1".toList = .error .trailingText := by decide
-- V40
theorem test_text_render : assembleLine "RENDER 2, \"Hi\"".toList = .ok (some (.render 2 [0x48#8, 0x69#8, 0#8])) := by decide
theorem test_text_program : assemble "NOP\n; only a comment\nINIT".toList
    = .ok [.word (.cw 0x000#10), .word (.cw 0x300#10)] := by decide
theorem test_text_disassemble : disassemble 0x180#10 = some "SENDI 0x80".toList := by decide

/-! ## Witnesses: for each statement with hypotheses, values that meet all of them -/

theorem idleWith_inv (q : List Request) : (idleWith q).Inv := by
  constructor <;> simp [idleWith, Phase.inResetPulse, Phase.inTransaction]

theorem initAt_inv (i : Fin 14) : (initAt .xTx i).Inv := by
  have h : ∀ j : Fin 14, (encodeFrame 0x1F#8 (initOpAt (sampleCfg .low) j)).wf (sampleCfg .low) = true := by decide
  constructor <;> simp [initAt, idleWith, Phase.inResetPulse, Phase.inTransaction, h]
  rfl

theorem sendAt_inv : (sendAt .xTx).Inv := by constructor <;> decide

theorem witness_DecodeOfEncodeIsTheInstruction : (Instr.encode 0xFF#8 0xFF#8).wf = true := by decide
theorem witness_EveryCommandWordSpellsItsCommand : 0x0FF#10 &&& 0x300#10 = 0x000#10 ∧ 0x1FF#10 &&& 0x300#10 = 0x100#10
    ∧ 0x2FF#10 &&& 0x300#10 = 0x200#10 ∧ 0x3FF#10 &&& 0x300#10 = 0x300#10 := by decide
theorem witness_EncodeOfDecodeIsTheWord :
    decode (.cw 0x1FF#10) = .ok (.sendi 0xFF#8) ∧ decode (.cw 0x0FF#10) = .ok .nop ∧ decode (.cw 0x3FF#10) = .ok .init := by decide
theorem witness_WellFormedFramesAreTheEncodedOnes : Frame.wf (sampleCfg .low) ⟨0x5F#8, 0x0F#8, 0x0F#8⟩ = true := by decide
theorem witness_EncodeIsInjective : (sampleCfg .low).wf = true
    ∧ encodeFrame (Mode.data.marker (sampleCfg .low)) 0xFF#8 = encodeFrame (Mode.data.marker (sampleCfg .low)) 0xFF#8 := by decide
theorem witness_ReceiverRebuildsSourceByte : 8 ≤ 8 := by decide
theorem witness_NopLeavesEverything : (idleWith []).ph = .idle := by decide
theorem witness_SendiLoadsInstructionFrame : (idleWith []).ph = .idle := by decide
theorem witness_SenddLoadsDataFrame : (idleWith []).ph = .idle := by decide
theorem witness_InitStartsTheResetPulse : (idleWith []).ph = .idle := by decide
theorem witness_BusyBlockKeepsOfferedCommand : (sendAt .xTx).ph ≠ .idle ∧ ∀ m b, Instr.init ≠ .encode m b :=
  ⟨by decide, by intro m b h; cases h⟩
theorem witness_AcceptanceDrivesNoLineAndEmitsNothing :
    (idleWith []).ph = .idle ∧ ∃ t, exec (.sendd 0xA5#8) (idleWith []) = .next t := ⟨rfl, _, rfl⟩
theorem witness_StepRunsTheDecodedInstruction :
    (idleWith [.word (.cw 0x2A5#10)]).extReset = false ∧ (idleWith [.word (.cw 0x2A5#10)]).ph = .idle
      ∧ (idleWith [.word (.cw 0x2A5#10)]).host = .word (.cw 0x2A5#10) :: [] ∧ decode (.cw 0x2A5#10) = .ok (.sendd 0xA5#8) := by decide
theorem witness_PlacedWordRunsNext : decodeTableWord 24 0xFF0F0F = some (.encode 0xFF#8 0xFF#8) ∧ decodeTableWord 16 0x3FF = some .init := by
  decide
theorem witness_IdleBlockWaits : (idleWith []).extReset = false ∧ (idleWith []).ph = .idle ∧ (idleWith []).host = [] := by decide
theorem witness_BusyBlockIgnoresTheHost : (sendAt .xTx).extReset = false ∧ (sendAt .xTx).ph ≠ .idle := by decide
theorem witness_DeselectPhase : (sendAt .xDesel).extReset = false ∧ (sendAt .xDesel).ph = .xDesel := by decide
theorem witness_ReselectPhase : (sendAt .xSel).extReset = false ∧ (sendAt .xSel).ph = .xSel := by decide
theorem witness_SettleDelayPhases : (sendAt .xWait1).extReset = false ∧ (sendAt .xWait1).ph = .xWait1 ∧ (sendAt .xWait2).ph = .xWait2 := by
  decide
theorem witness_TransmitPhase :
    ((sendAt .xTx).extReset = false ∧ (sendAt .xTx).ph = .xTx ∧ (sendAt .xTx).ini = false)
      ∧ ((initAt .xTx 12).ph = .xTx ∧ (initAt .xTx 12).ini = true ∧ (initAt .xTx 12).ix.val < 13)
      ∧ ((initAt .xTx 13).ph = .xTx ∧ (initAt .xTx 13).ini = true ∧ (initAt .xTx 13).ix = 13) := by decide
theorem witness_FrameGoesOutMarkerLowHigh :
    (sendAt .xTx).extReset = false ∧ (sendAt .xTx).ph = .xTx ∧ (sendAt .xTx).fb = encodeFrame 0x5F#8 0xA5#8 := by decide
theorem witness_TransmitAnswersAreDropped : (sendAt .xTx).extReset = false ∧ ∃ t, step (sendAt .xTx) = .next t := ⟨rfl, _, rfl⟩
theorem witness_ResetPulsePhases : (initAt .rAssert 0).extReset = false ∧ (initAt .rAssert 0).ph = .rAssert
    ∧ (initAt .rPulse 0).ph = .rPulse ∧ (initAt .rRelease 0).ph = .rRelease := by decide
theorem witness_ResetSettlePhase : (initAt .rSettle 0).extReset = false ∧ (initAt .rSettle 0).ph = .rSettle := by decide
theorem witness_LoadPhaseFramesTheTableByte : (initAt .iLoad 13).extReset = false ∧ (initAt .iLoad 13).ph = .iLoad := by decide
theorem witness_FinalSelectPhase : (initAt .iFinal 13).extReset = false ∧ (initAt .iFinal 13).ph = .iFinal := by decide
theorem witness_BlockResetAtAnyMoment : ({ initAt .xTx 7 with extReset := true } : State).extReset = true := by decide
theorem witness_LaunchMarkersDiffer : (0xFF#8 : Byte) ≠ 0x00#8 := by decide
theorem witness_CfgIsConstant : Reaches (idleWith []) { idleWith [] with extReset := true } := .askReset [] (.refl _)
theorem witness_LinesAreWrittenInTheirPhasesOnly : (sendAt .xTx).extReset = false ∧ (∃ t, step (sendAt .xTx) = .next t)
    ∧ (sendAt .xTx).ph ≠ .xDesel ∧ (sendAt .xTx).ph ≠ .xSel ∧ (sendAt .xTx).ph ≠ .iFinal ∧ (sendAt .xTx).ph ≠ .rAssert
    ∧ (sendAt .xTx).ph ≠ .rRelease := ⟨rfl, ⟨_, rfl⟩, by decide⟩
theorem witness_LinesAndTraceAreNeverRead : (sendAt .xDesel).extReset = false ∧ ∃ t, step (sendAt .xDesel) = .next t := ⟨rfl, _, rfl⟩
theorem witness_FrameBufferWritersAndReader : (initAt .iLoad 13).extReset = false ∧ (initAt .iLoad 13).ph ≠ .xTx
    ∧ ∃ t, step { initAt .iLoad 13 with fb := ⟨0x1F#8, 0#8, 0#8⟩ } = .next t ∧ t.fb ≠ ⟨0x1F#8, 0#8, 0#8⟩ :=
  ⟨rfl, by decide, _, rfl, by decide⟩
theorem witness_InitFlagWritersAndReader :
    (∃ t, step (idleWith [.word (.cw 0x300#10)]) = .next t ∧ (idleWith [.word (.cw 0x300#10)]).ini = false ∧ t.ini = true)
      ∧ (∃ t, step (initAt .iFinal 13) = .next t ∧ (initAt .iFinal 13).ini = true ∧ t.ini = false) :=
  ⟨⟨_, rfl, rfl, rfl⟩, _, rfl, rfl, rfl⟩
theorem witness_SequencerDependsOnItselfOnly : (initAt .xTx 13).extReset = false ∧ (initAt .xTx 13).ph ≠ .idle
    ∧ ({ initAt .xTx 13 with sel := .low, fbHeld := false } : State).ph = (initAt .xTx 13).ph := by decide
theorem witness_TraceGrowsByOneEvent : (sendAt .xSel).extReset = false ∧ ∃ t, step (sendAt .xSel) = .next t := ⟨rfl, _, rfl⟩
theorem witness_OnlyTheHostLayerIsRefused :
    step (idleWith [.render 0 [0#8]]) = .refused (.renderRowOutOfRange 0) ∧ step (idleWith [.render 1 []]) = .refused .renderWithoutSentinel
      ∧ step (idleWith [.word (.f3 0x00F000#24)]) = .refused (.notACodecWord 0x00F000#24) := ⟨rfl, rfl, rfl⟩
theorem witness_AdmittedRequestsAlwaysStep : ∀ q ∈ (idleWith [.render 4 [0#8]]).host.head?, q.wf = true := by decide
theorem witness_StepKeepsPhaseInvariant : (initAt .xTx 13).Inv ∧ ∃ t, step (initAt .xTx 13) = .next t := ⟨initAt_inv 13, _, rfl⟩
theorem witness_PhaseInvariantInEveryReachableState :
    Reaches (State.launch (sampleCfg .low)) { State.launch (sampleCfg .low) with host := [] ++ [.word (.cw 0x300#10)] } :=
  .issue [.word (.cw 0x300#10)] (.refl _)
theorem witness_StepKeepsTransmittedFramesWellFormed :
    (sendAt .xTx).Inv ∧ (∀ e ∈ (sendAt .xTx).trace, e.wf (sendAt .xTx).cfg = true) ∧ ∃ t, step (sendAt .xTx) = .next t :=
  ⟨sendAt_inv, by decide, _, rfl⟩
theorem witness_StepKeepsLinesMatchingTrace : (sendAt .xDesel).LinesMatchTrace ∧ ∃ t, step (sendAt .xDesel) = .next t :=
  ⟨⟨rfl, rfl⟩, _, rfl⟩
theorem witness_BusyStepsCountDownToIdle : (initAt .xTx 0).Inv ∧ (initAt .xTx 0).extReset = false ∧ (initAt .xTx 0).ph ≠ .idle :=
  ⟨initAt_inv 0, rfl, by decide⟩
theorem witness_EveryRunningCommandEnds : (sendAt .xTx).Inv ∧ (sendAt .xTx).extReset = false := ⟨sendAt_inv, rfl⟩
theorem witness_SendiSendsOneInstructionFrame : (idleWith [.word (.cw 0x138#10)]).Inv ∧ (idleWith [.word (.cw 0x138#10)]).extReset = false
    ∧ (idleWith [.word (.cw 0x138#10)]).ph = .idle ∧ (idleWith [.word (.cw 0x138#10)]).host = .word (.cw 0x138#10) :: []
    ∧ decode (.cw 0x138#10) = .ok (.sendi 0x38#8) := ⟨idleWith_inv _, rfl, rfl, rfl, by decide⟩
theorem witness_SenddSendsOneDataFrame : (idleWith [.word (.cw 0x241#10)]).Inv ∧ (idleWith [.word (.cw 0x241#10)]).extReset = false
    ∧ (idleWith [.word (.cw 0x241#10)]).ph = .idle ∧ (idleWith [.word (.cw 0x241#10)]).host = .word (.cw 0x241#10) :: []
    ∧ decode (.cw 0x241#10) = .ok (.sendd 0x41#8) := ⟨idleWith_inv _, rfl, rfl, rfl, by decide⟩
theorem witness_InitRunsTheWholeSequence : (idleWith [.word (.cw 0x3FF#10)]).Inv ∧ (idleWith [.word (.cw 0x3FF#10)]).extReset = false
    ∧ (idleWith [.word (.cw 0x3FF#10)]).ph = .idle ∧ (idleWith [.word (.cw 0x3FF#10)]).host = .word (.cw 0x3FF#10) :: []
    ∧ decode (.cw 0x3FF#10) = .ok .init := ⟨idleWith_inv _, rfl, rfl, rfl, by decide⟩
theorem witness_InitIsIdempotent : (idleWith [.word (.cw 0x300#10)]).Inv ∧ (idleWith [.word (.cw 0x3FF#10)]).Inv
    ∧ (idleWith [.word (.cw 0x300#10)]).extReset = false ∧ (idleWith [.word (.cw 0x300#10)]).ph = .idle
    ∧ (idleWith [.word (.cw 0x3FF#10)]).cfg = (idleWith [.word (.cw 0x300#10)]).cfg
    ∧ decode (.cw 0x300#10) = .ok .init ∧ decode (.cw 0x3FF#10) = .ok .init :=
  ⟨idleWith_inv _, idleWith_inv _, rfl, rfl, rfl, by decide, by decide⟩
theorem witness_CommandsArePerformedInOrder :
    (idleWith [.word (.cw 0x3FF#10), .word (.cw 0x2A5#10)]).Inv
      ∧ (idleWith [.word (.cw 0x3FF#10), .word (.cw 0x2A5#10)]).extReset = false
      ∧ (idleWith [.word (.cw 0x3FF#10), .word (.cw 0x2A5#10)]).ph = .idle
      ∧ [InstrWord.cw 0x3FF#10, .cw 0x2A5#10].map decode = [Instr.init, .sendd 0xA5#8].map Except.ok
      ∧ (idleWith [.word (.cw 0x3FF#10), .word (.cw 0x2A5#10)]).host
        = [InstrWord.cw 0x3FF#10, .cw 0x2A5#10].map Request.word ++ [] := ⟨idleWith_inv _, rfl, rfl, rfl, rfl⟩
theorem witness_RowBaseAddresses : 1 ≤ 4 ∧ 4 ≤ 4 ∧ (0#8 : Byte) ∈ [0x41#8, 0#8] := by decide
theorem witness_EmptyTextIssuesOnlyThePositioning : 1 ≤ 1 ∧ 1 ≤ 4 := by decide
theorem witness_FirstZeroByteEndsTheText : 1 ≤ 4 ∧ 4 ≤ 4 ∧ (0#8 : Byte) ∉ [0x41#8, 0xFF#8] := by decide
theorem witness_RenderSendsPositionThenEachByte : (idleWith [.render 2 ([0x48#8, 0x69#8] ++ 0#8 :: [0x42#8])]).Inv
    ∧ (idleWith [.render 2 ([0x48#8, 0x69#8] ++ 0#8 :: [0x42#8])]).ph = .idle ∧ (0#8 : Byte) ∉ [0x48#8, 0x69#8] :=
  ⟨idleWith_inv _, rfl, by decide⟩

end Sys2Proof.Tests
end

/-! ## The configuration: the two markers of a launch (R11), and its constancy (R10) -/

namespace Sys2Proof.Config

/-- No byte plus one plus a gap below 255 comes round to itself: the two markers of a launch form differ (R11). -/
theorem add_one_add_gap_ne (a : Byte) (g : Fin 255) : a ≠ a + 1#8 + BitVec.ofNat 8 g.val := by
  have hg := g.isLt
  bv_omega

/-- The gap of two different markers: how far the second lies beyond the first, less one, modulo 256. -/
def gapOf (a b : Byte) : Byte := b - a - 1#8

/-- 255 is the gap of equal markers only. -/
theorem gapOf_toNat_lt {a b : Byte} (h : a ≠ b) : (gapOf a b).toNat < 255 := by
  unfold gapOf
  bv_omega

theorem add_one_add_gapOf (a b : Byte) : a + 1#8 + gapOf a b = b := by
  unfold gapOf
  bv_omega

theorem launch_wf : launch.wf = true :=
  bne_iff_ne.mpr (add_one_add_gap_ne markerInstr markerGap)

/-- Settles O34: the marker gap never comes round to the first marker, and `gapOf` is the gap of a given pair. -/
theorem launchMarkersDiffer : Obligations.LaunchMarkersDiffer := by
  refine ⟨launch_wf, fun a b h => ⟨⟨(gapOf a b).toNat, gapOf_toNat_lt h⟩, ?_⟩⟩
  rw [BitVec.ofNat_toNat, BitVec.setWidth_eq, add_one_add_gapOf]

end Sys2Proof.Config

namespace Sys2Proof.Machine

/-- An instruction accepted in `IDLE` leaves the configuration alone (R10). -/
theorem exec_idle_cfg {i : Instr} {s t : State} (hp : s.ph = .idle) (h : exec i s = .next t) : t.cfg = s.cfg := by
  rw [exec_idle i s hp] at h
  cases h
  cases i <;> rfl

/-- A step leaves the configuration alone, in each of the four things it can do (R10). -/
theorem step_cfg {s t : State} (h : step s = .next t) : t.cfg = s.cfg := by
  obtain ⟨-, rfl⟩ | ⟨-, -, rfl⟩ | ⟨-, -, -, rfl⟩ | ⟨-, hp, x, rest, i, -, -, hx⟩ := step_cases h
  · exact s.blockReset_cfg
  · obtain ⟨hcfg, -⟩ := phaseStep_frame s
    exact hcfg
  · rfl
  · exact exec_idle_cfg (s := { s with host := rest }) hp hx

/-- Settles O35, by induction on what the outside brings about: only a step touches more than `host` and `extReset`. -/
theorem cfgIsConstant : Obligations.CfgIsConstant := by
  intro s t h
  induction h with
  | refl => rfl
  | step _ hs ih => exact (step_cfg hs).trans ih
  | issue _ _ ih => exact ih
  | askReset _ _ ih => exact ih

end Sys2Proof.Machine

/-! ## The state: what a step does to each field, and what every step keeps (10_state.md) -/

namespace Sys2Proof.Machine

/-! ### Block reset and launch (R36, R161, R163) -/

/-- Settles O32: the step serves the external reset first, with the values of R36. -/
theorem blockResetAtAnyMoment : Obligations.BlockResetAtAnyMoment := fun s hr =>
  ⟨s.blockReset, step_extReset s hr, rfl, rfl, rfl, rfl, rfl, rfl, rfl, rfl, rfl, rfl, rfl⟩

/-- Settles O33: nothing is offered at launch, so the idle block waits. -/
theorem launchStateIsIdleAndSilent : Obligations.LaunchStateIsIdleAndSilent :=
  ⟨rfl, fun c => ⟨rfl, rfl, rfl, rfl, rfl, rfl, rfl, rfl, rfl, step_idle (State.launch c) rfl rfl⟩⟩

/-! ### The state an accepted instruction leaves -/

/-- What an idle block becomes when it accepts `i` (R91 to R93, R111; R80 for the codec's row). -/
def State.accept (s : State) : Instr → State
  | .nop => s.goto .idle
  | .sendi b => s.beginSend .instr b
  | .sendd b => s.beginSend .data b
  | .init => s.beginInit
  | .encode m b => { s with codecOut := s.codecOut ++ [encodeFrame m b] }

theorem exec_eq_accept (i : Instr) (s : State) (hp : s.ph = .idle) : exec i s = .next (s.accept i) := by
  rw [exec_idle i s hp]
  cases i <;> rfl

/-- No acceptance drives a line, emits an event or changes the configuration. -/
theorem accept_lines_trace (s : State) (i : Instr) :
    (s.accept i).cfg = s.cfg ∧ (s.accept i).trace = s.trace ∧ (s.accept i).sel = s.sel ∧ (s.accept i).rst = s.rst := by
  cases i <;> exact ⟨rfl, rfl, rfl, rfl⟩

/-- `INIT` raises `INI`, and no acceptance lowers it (R27). -/
theorem accept_ini (s : State) (i : Instr) : (s.accept i).ini = (s.ini || i = .init) := by
  cases i <;> simp [State.accept, State.beginSend, State.beginInit]

/-- The two sends are the instructions that load `FB` when accepted (R21). -/
theorem accept_fb_of_not_send (s : State) {i : Instr} (hi : ∀ b, i ≠ .sendi b) (hd : ∀ b, i ≠ .sendd b) :
    (s.accept i).fb = s.fb ∧ (s.accept i).fbHeld = s.fbHeld := by
  cases i with
  | nop => exact ⟨rfl, rfl⟩
  | sendi b => exact absurd rfl (hi b)
  | sendd b => exact absurd rfl (hd b)
  | init => exact ⟨rfl, rfl⟩
  | encode m b => exact ⟨rfl, rfl⟩

/-- `step_cases` with the state an acceptance leaves written out. -/
theorem step_next_cases {s t : State} (hs : step s = .next t) :
    (s.extReset = true ∧ t = s.blockReset) ∨
    (s.extReset = false ∧ s.ph ≠ .idle ∧ t = phaseStep s) ∨
    (s.extReset = false ∧ s.ph = .idle ∧ nextIssue s.host = .nothing ∧ t = s) ∨
    (s.extReset = false ∧ s.ph = .idle ∧ ∃ x rest i, nextIssue s.host = .offers x rest ∧ decode x = .ok i ∧
      t = ({ s with host := rest } : State).accept i) := by
  obtain h | h | h | ⟨hr, hp, x, rest, i, hn, hd, he⟩ := step_cases hs
  · exact .inl h
  · exact .inr (.inl h)
  · exact .inr (.inr (.inl h))
  · rw [exec_eq_accept i { s with host := rest } hp] at he
    cases he
    exact .inr (.inr (.inr ⟨hr, hp, x, rest, i, hn, hd, rfl⟩))

/-! ### The phase invariant, kind of phase by kind of phase (R38, R26, R22) -/

/-- What the codec makes under one of the two markers is well formed (R22, R85). -/
theorem encodeFrame_marker_wf (c : Cfg) (m : Mode) (b : Byte) : (encodeFrame (m.marker c) b).wf c = true := by
  have hl : lowNibble b < 16#8 := lowNibble_lt b
  have hh : highNibble b < 16#8 := highNibble_lt b
  cases m <;> simp [Frame.wf, Mode.marker, hl, hh]

theorem Phase.not_others_of_inResetPulse {p : Phase} (h : p.inResetPulse = true) :
    p ≠ .idle ∧ p ≠ .iFinal ∧ p.inTransaction = false := by
  revert h
  cases p <;> decide

theorem Phase.not_others_of_inTransaction {p : Phase} (h : p.inTransaction = true) :
    p ≠ .idle ∧ p ≠ .iLoad ∧ p ≠ .iFinal ∧ p.inResetPulse = false := by
  revert h
  cases p <;> decide

section
variable {s : State}

theorem inv_iff_of_idle (hp : s.ph = .idle) :
    s.Inv ↔ s.ix = 0 ∧ s.ini = false ∧ (s.fbHeld = true → s.fb.wf s.cfg = true) := by
  constructor
  · intro hs
    obtain ⟨hix, hini⟩ := hs.idle hp
    exact ⟨hix, hini, hs.frame⟩
  · rintro ⟨hix, hini, hf⟩
    constructor <;> simp_all [Phase.inResetPulse, Phase.inTransaction]

theorem inv_iff_of_inResetPulse (hp : s.ph.inResetPulse = true) :
    s.Inv ↔ s.ix = 0 ∧ s.ini = true ∧ (s.fbHeld = true → s.fb.wf s.cfg = true) := by
  constructor
  · exact fun hs => ⟨hs.pulse hp, hs.initPhases (.inl hp), hs.frame⟩
  · rintro ⟨hix, hini, hf⟩
    obtain ⟨hidle, hfinal, htx⟩ := Phase.not_others_of_inResetPulse hp
    constructor <;> simp_all

theorem inv_iff_of_iLoad (hp : s.ph = .iLoad) :
    s.Inv ↔ s.ini = true ∧ (s.fbHeld = true → s.fb.wf s.cfg = true) := by
  constructor
  · exact fun hs => ⟨hs.initPhases (.inr (.inl hp)), hs.frame⟩
  · rintro ⟨hini, hf⟩
    constructor <;> simp_all [Phase.inResetPulse, Phase.inTransaction]

theorem inv_iff_of_inTransaction (hp : s.ph.inTransaction = true) :
    s.Inv ↔ s.fbHeld = true ∧ s.fb.wf s.cfg = true ∧ (s.ini = false → s.ix = 0) ∧
      (s.ini = true → s.fb = encodeFrame s.cfg.markerInstr (initOpAt s.cfg s.ix)) := by
  constructor
  · exact fun hs => ⟨hs.held hp, hs.frame (hs.held hp), hs.ixZero, hs.initFrame hp⟩
  · rintro ⟨hheld, hf, hix, hframe⟩
    obtain ⟨hidle, hload, hfinal, hpulse⟩ := Phase.not_others_of_inTransaction hp
    constructor <;> simp_all

theorem inv_iff_of_iFinal (hp : s.ph = .iFinal) :
    s.Inv ↔ s.ix = 13 ∧ s.ini = true ∧ (s.fbHeld = true → s.fb.wf s.cfg = true) := by
  constructor
  · exact fun hs => ⟨hs.final hp, hs.initPhases (.inr (.inr hp)), hs.frame⟩
  · rintro ⟨hix, hini, hf⟩
    constructor <;> simp_all [Phase.inResetPulse, Phase.inTransaction]

/-- The invariant reads neither the lines nor the trace, and does not tell the phases of the pulse apart. -/
theorem State.Inv.withinPulse (hs : s.Inv) (hp : s.ph.inResetPulse = true) {p : Phase} (hp' : p.inResetPulse = true)
    (rst : Level) (es : List Event) : ({ s with rst := rst, trace := es, ph := p } : State).Inv :=
  (inv_iff_of_inResetPulse hp').2 ((inv_iff_of_inResetPulse hp).1 hs)

/-- The invariant reads neither the lines nor the trace, and does not tell the phases of a transaction apart. -/
theorem State.Inv.withinTransaction (hs : s.Inv) (hp : s.ph.inTransaction = true) {p : Phase}
    (hp' : p.inTransaction = true) (sel : Level) (es : List Event) :
    ({ s with sel := sel, trace := es, ph := p } : State).Inv :=
  (inv_iff_of_inTransaction hp').2 ((inv_iff_of_inTransaction hp).1 hs)

/-- The end of a transmit: the frame was that of the byte at `IX`, and 13 is the last index (R98, R117). -/
theorem State.Inv.phaseStep_xTx (hs : s.Inv) (hp : s.ph = .xTx) : (phaseStep s).Inv := by
  obtain ⟨hheld, hf, hix, -⟩ := (inv_iff_of_inTransaction (by simp [hp, Phase.inTransaction])).1 hs
  rw [Machine.phaseStep_xTx hp]
  obtain ⟨hini, e⟩ | ⟨hini, h, e⟩ | ⟨hini, hlast, e⟩ := afterTransmit_cases s.afterTx <;> rw [e]
  · exact (inv_iff_of_idle rfl).2 ⟨hix hini, hini, fun _ => hf⟩
  · exact (inv_iff_of_iLoad rfl).2 ⟨hini, fun _ => hf⟩
  · exact (inv_iff_of_iFinal rfl).2 ⟨hlast, hini, fun _ => hf⟩

theorem State.Inv.phaseStep (hs : s.Inv) : (phaseStep s).Inv := by
  cases hp : s.ph with
  | idle => rwa [phaseStep_idle hp]
  | rAssert => rw [phaseStep_rAssert hp]; exact hs.withinPulse (by rw [hp]; rfl) rfl _ _
  | rPulse => rw [phaseStep_rPulse hp]; exact hs.withinPulse (by rw [hp]; rfl) rfl _ _
  | rRelease => rw [phaseStep_rRelease hp]; exact hs.withinPulse (by rw [hp]; rfl) rfl _ _
  | rSettle =>
    obtain ⟨-, hini, hf⟩ := (inv_iff_of_inResetPulse (by rw [hp]; rfl)).1 hs
    rw [phaseStep_rSettle hp]
    exact (inv_iff_of_iLoad rfl).2 ⟨hini, hf⟩
  | iLoad =>
    rw [phaseStep_iLoad hp]
    exact (inv_iff_of_inTransaction rfl).2 ⟨rfl, encodeFrame_marker_wf s.cfg .instr _, hs.ixZero, fun _ => rfl⟩
  | xDesel => rw [phaseStep_xDesel hp]; exact hs.withinTransaction (by rw [hp]; rfl) rfl _ _
  | xWait1 => rw [phaseStep_xWait1 hp]; exact hs.withinTransaction (by rw [hp]; rfl) rfl _ _
  | xSel => rw [phaseStep_xSel hp]; exact hs.withinTransaction (by rw [hp]; rfl) rfl _ _
  | xWait2 => rw [phaseStep_xWait2 hp]; exact hs.withinTransaction (by rw [hp]; rfl) rfl _ _
  | xTx => exact hs.phaseStep_xTx hp
  | iFinal => rw [phaseStep_iFinal hp]; exact (inv_iff_of_idle rfl).2 ⟨rfl, rfl, hs.frame⟩

/-- The host's list and its wish for a reset are no part of the invariant. -/
theorem State.Inv.withOutside (hs : s.Inv) (reset : Bool) (rs : List Request) :
    ({ s with extReset := reset, host := rs } : State).Inv :=
  ⟨hs.idle, hs.initPhases, hs.pulse, hs.final, hs.held, hs.initFrame, hs.ixZero, hs.frame⟩

/-- A transaction begun outside an `INIT` run: the frame is a codec frame, and `IX` is 0 (R92, R93). -/
theorem State.Inv.beginSend (hs : s.Inv) (hp : s.ph = .idle) (m : Mode) (b : Byte) : (s.beginSend m b).Inv := by
  obtain ⟨hix, hini⟩ := hs.idle hp
  exact (inv_iff_of_inTransaction rfl).2
    ⟨rfl, encodeFrame_marker_wf s.cfg m b, fun _ => hix, fun h => absurd (hini.symm.trans h) Bool.false_ne_true⟩

theorem State.Inv.accept (hs : s.Inv) (hp : s.ph = .idle) (i : Instr) : (s.accept i).Inv := by
  cases i with
  | nop => exact (inv_iff_of_idle rfl).2 ((inv_iff_of_idle hp).1 hs)
  | sendi b => exact hs.beginSend hp .instr b
  | sendd b => exact hs.beginSend hp .data b
  | init => exact (inv_iff_of_inResetPulse rfl).2 ⟨rfl, rfl, hs.frame⟩
  | encode m b => exact (inv_iff_of_idle (s := s.accept (.encode m b)) hp).2 ((inv_iff_of_idle hp).1 hs)

end

/-- Settles O44: after reset `FB` holds nothing, so R22 says nothing of it. -/
theorem phaseInvariantAtLaunch : Obligations.PhaseInvariantAtLaunch := fun _ =>
  (inv_iff_of_idle rfl).2 ⟨rfl, rfl, nofun⟩

/-- Settles O45, in each of the four things a step can do. -/
theorem stepKeepsPhaseInvariant : Obligations.StepKeepsPhaseInvariant := by
  intro s t hs hst
  obtain ⟨-, rfl⟩ | ⟨-, -, rfl⟩ | ⟨-, -, -, rfl⟩ | ⟨-, hp, x, rest, i, -, -, rfl⟩ := step_next_cases hst
  · exact (inv_iff_of_idle rfl).2 ⟨rfl, rfl, nofun⟩
  · exact hs.phaseStep
  · exact hs
  · exact (hs.withOutside s.extReset rest).accept hp i

/-- The invariant holds along everything the outside brings about, by induction on it. -/
theorem Reaches.inv {s t : State} (h : Reaches s t) (hs : s.Inv) : t.Inv := by
  induction h with
  | refl => exact hs
  | step _ hst ih => exact stepKeepsPhaseInvariant _ _ ih hst
  | issue rs _ ih => exact ih.withOutside _ _
  | askReset rs _ ih => exact ih.withOutside true rs

/-- Settles O46, from the invariant at launch. -/
theorem phaseInvariantInEveryReachableState : Obligations.PhaseInvariantInEveryReachableState := fun c _ h =>
  h.inv (phaseInvariantAtLaunch c)

/-! ### A busy step in closed form -/

/-- The events a phase appends: at most one, a function of the configuration and, in `X_TX`, of `FB` (R94 to R98, R112 to
R118). -/
def Phase.events (c : Cfg) (f : Frame) : Phase → List Event
  | .idle => []
  | .rAssert => [.rstW c.resetActive]
  | .rPulse => [.dly c.tRstPulse]
  | .rRelease => [.rstW c.resetActive.other]
  | .rSettle => [.dly c.tRstSettle]
  | .iLoad => []
  | .xDesel => [.selW .high]
  | .xWait1 => [.dly c.tSelHigh]
  | .xSel => [.selW .low]
  | .xWait2 => [.dly c.tSelLow]
  | .xTx => [.tx f.b0 f.b1 f.b2 3 c.txTimeout]
  | .iFinal => [.selW c.postInitSelect]

/-- The phase that follows, a function of `PH`, `INI` and `IX` (R25). -/
def Phase.next (ini : Bool) (ix : Fin 14) : Phase → Phase
  | .idle => .idle
  | .rAssert => .rPulse
  | .rPulse => .rRelease
  | .rRelease => .rSettle
  | .rSettle => .iLoad
  | .iLoad => .xDesel
  | .xDesel => .xWait1
  | .xWait1 => .xSel
  | .xSel => .xWait2
  | .xWait2 => .xTx
  | .xTx => if ini then if ix.val < 13 then .iLoad else .iFinal else .idle
  | .iFinal => .idle

/-- The `IX` that follows: the next byte's after a transmit of an `INIT` run, 0 after the run (R117, R118). -/
def Phase.nextIx (ini : Bool) (ix : Fin 14) : Phase → Fin 14
  | .xTx => if h : ini = true ∧ ix.val < 13 then ⟨ix.val + 1, by omega⟩ else ix
  | .iFinal => 0
  | _ => ix

/-- Each field after a busy step, as a function of the fields it depends on: by computation in every phase but `X_TX`, which
asks for `INI` and `IX`, and the two phases without an event. -/
theorem phaseStep_eq (s : State) : phaseStep s = { s with
    fb := if s.ph = .iLoad then encodeFrame s.cfg.markerInstr (initOpAt s.cfg s.ix) else s.fb
    fbHeld := s.ph = .iLoad || s.fbHeld
    sel := lastSel s.sel (s.ph.events s.cfg s.fb)
    rst := lastRst s.rst (s.ph.events s.cfg s.fb)
    ph := s.ph.next s.ini s.ix
    ix := s.ph.nextIx s.ini s.ix
    ini := s.ph ≠ .iFinal && s.ini
    trace := s.trace ++ s.ph.events s.cfg s.fb
    draws := if s.ph = .xTx then s.draws + 1 else s.draws } := by
  obtain ⟨c, fb, held, sel, rst, ph, ix, ini, trace, host, extReset, codecOut, draws⟩ := s
  cases ph
  case idle => simp [phaseStep_idle, Phase.events, Phase.next, Phase.nextIx, lastSel, lastRst]
  case iLoad => simp [phaseStep_iLoad, Phase.events, Phase.next, Phase.nextIx, lastSel, lastRst]
  case xTx =>
    cases ini with
    | false => rfl
    | true =>
      by_cases hx : ix.val < 13
      · simp [phaseStep_xTx_next, hx, State.afterTx, Phase.events, Phase.next, Phase.nextIx, lastSel, lastRst]
      · obtain rfl : ix = 13 := by omega
        rfl
  all_goals rfl

/-! ### The lines and the trace (R30 to R32, R51) -/

theorem lastSel_append (l : Level) (es fs : List Event) : lastSel l (es ++ fs) = lastSel (lastSel l es) fs := by
  induction es generalizing l with
  | nil => rfl
  | cons e es ih => cases e <;> exact ih _

theorem lastRst_append (l : Level) (es fs : List Event) : lastRst l (es ++ fs) = lastRst (lastRst l es) fs := by
  induction es generalizing l with
  | nil => rfl
  | cons e es ih => cases e <;> exact ih _

theorem Phase.length_events (c : Cfg) (f : Frame) (p : Phase) :
    (p.events c f).length = if p = .idle ∨ p = .iLoad then 0 else 1 := by cases p <;> rfl

/-- No write to the select line outside its three phases. -/
theorem Phase.lastSel_events {p : Phase} (c : Cfg) (f : Frame) (l : Level) (h₁ : p ≠ .xDesel) (h₂ : p ≠ .xSel)
    (h₃ : p ≠ .iFinal) : lastSel l (p.events c f) = l := by
  cases p <;> simp_all [Phase.events, lastSel]

/-- No write to the reset line outside its two phases. -/
theorem Phase.lastRst_events {p : Phase} (c : Cfg) (f : Frame) (l : Level) (h₁ : p ≠ .rAssert) (h₂ : p ≠ .rRelease) :
    lastRst l (p.events c f) = l := by
  cases p <;> simp_all [Phase.events, lastRst]

/-- No event but the transmit carries what is in `FB`. -/
theorem Phase.events_congr {p : Phase} (c : Cfg) (f f' : Frame) (h : p ≠ .xTx) : p.events c f = p.events c f' := by
  cases p <;> simp_all [Phase.events]

/-- Without an external reset a step appends its phase's events, and writes the lines as these events say. -/
theorem step_lines_trace {s t : State} (hr : s.extReset = false) (hs : step s = .next t) :
    t.cfg = s.cfg ∧ t.trace = s.trace ++ s.ph.events s.cfg s.fb ∧
      t.sel = lastSel s.sel (s.ph.events s.cfg s.fb) ∧ t.rst = lastRst s.rst (s.ph.events s.cfg s.fb) := by
  obtain ⟨hr', -⟩ | ⟨-, -, rfl⟩ | ⟨-, hp, -, rfl⟩ | ⟨-, hp, x, rest, i, -, -, rfl⟩ := step_next_cases hs
  · simp [hr] at hr'
  · simp [phaseStep_eq s]
  · simp [hp, Phase.events, lastSel, lastRst]
  · simpa [hp, Phase.events, lastSel, lastRst] using accept_lines_trace { s with host := rest } i

/-- Settles O48: the step's own events are what moves both the lines and the trace. -/
theorem stepKeepsLinesMatchingTrace : Obligations.StepKeepsLinesMatchingTrace := by
  refine ⟨fun _ => ⟨rfl, rfl⟩, fun s t ⟨hsel, hrst⟩ hs => ?_⟩
  cases hr : s.extReset with
  | true =>
    rw [step_extReset s hr] at hs
    cases hs
    exact ⟨rfl, rfl⟩
  | false =>
    obtain ⟨hc, htr, hsel', hrst'⟩ := step_lines_trace hr hs
    exact ⟨by rw [hsel', hc, htr, lastSel_append, ← hsel], by rw [hrst', hc, htr, lastRst_append, ← hrst]⟩

/-- Settles O36: the events of the other phases write neither line. -/
theorem linesAreWrittenInTheirPhasesOnly : Obligations.LinesAreWrittenInTheirPhasesOnly := by
  intro s t hr hs
  obtain ⟨-, -, hsel, hrst⟩ := step_lines_trace hr hs
  exact ⟨fun h₁ h₂ h₃ => hsel.trans (Phase.lastSel_events _ _ _ h₁ h₂ h₃),
    fun h₁ h₂ => hrst.trans (Phase.lastRst_events _ _ _ h₁ h₂)⟩

/-- Settles O41, with the events of the phase. -/
theorem traceGrowsByOneEvent : Obligations.TraceGrowsByOneEvent := by
  intro s t hr hs
  obtain ⟨-, htr, -⟩ := step_lines_trace hr hs
  exact ⟨_, htr, Phase.length_events _ _ _⟩

/-! ### Two states side by side: what a step does not read -/

/-- Two states with the same phase and the same host step alike: a relation that each phase and each acceptance carries over
holds between the states they step to. -/
theorem step_related {R : State → State → Prop} {s s' t : State} (hr : s.extReset = false) (hr' : s'.extReset = false)
    (hph : s'.ph = s.ph) (hhost : s'.host = s.host) (hs : step s = .next t)
    (hphase : R (phaseStep s) (phaseStep s'))
    (haccept : ∀ i rest, R (({ s with host := rest } : State).accept i) (({ s' with host := rest } : State).accept i)) :
    ∃ t', step s' = .next t' ∧ R t t' := by
  obtain ⟨h, -⟩ | ⟨-, hp, rfl⟩ | ⟨-, hp, hn, rfl⟩ | ⟨-, hp, x, rest, i, hn, hd, rfl⟩ := step_next_cases hs
  · simp [hr] at h
  · exact ⟨_, step_busy s' hr' (hph ▸ hp), hphase⟩
  · have hp' := hph.trans hp
    rw [phaseStep_idle hp, phaseStep_idle hp'] at hphase
    exact ⟨s', by rw [step_idle s' hr' hp', hhost, hn], hphase⟩
  · refine ⟨_, ?_, haccept i rest⟩
    rw [step_offers s' x rest i hr' (hph.trans hp) (hhost ▸ hn) hd]
    exact exec_eq_accept i { s' with host := rest } (hph.trans hp)

/-- Settles O37: the phase's events, and all fields but the two lines and the trace, are functions of none of the three. -/
theorem linesAndTraceAreNeverRead : Obligations.LinesAndTraceAreNeverRead := by
  intro s t l l' past hr hs
  obtain ⟨t', hs', ht⟩ := step_related (s' := { s with sel := l, rst := l', trace := past })
    (R := fun t t' => { t' with sel := t.sel, rst := t.rst, trace := t.trace } = t) hr hr rfl rfl hs
    (by simp [phaseStep_eq]) (fun i _ => by cases i <;> rfl)
  obtain ⟨-, htr, -⟩ := step_lines_trace hr hs
  obtain ⟨-, htr', -⟩ := step_lines_trace (s := { s with sel := l, rst := l', trace := past }) hr hs'
  exact ⟨t', _, hs', htr, htr', ht⟩

/-- Settles O38: of the phases `I_LOAD` alone writes `FB`, of the instructions the two sends alone; and what the other
phases do is no function of it. -/
theorem frameBufferWritersAndReader : Obligations.FrameBufferWritersAndReader := by
  intro s t hr hs
  refine ⟨fun hne => ?_, fun hp f => ?_⟩
  · obtain ⟨h, -⟩ | ⟨-, -, rfl⟩ | ⟨-, -, -, rfl⟩ | ⟨-, hp, x, rest, i, hn, hd, rfl⟩ := step_next_cases hs
    · simp [hr] at h
    · left
      by_contra hp
      simp [phaseStep_eq s, hp] at hne
    · simp at hne
    · right
      by_contra hno
      obtain ⟨hfb, hheld⟩ := accept_fb_of_not_send { s with host := rest }
        (fun b hi => hno ⟨hp, x, rest, b, hn, .inl (hi ▸ hd)⟩) (fun b hi => hno ⟨hp, x, rest, b, hn, .inr (hi ▸ hd)⟩)
      exact hne.elim (absurd hfb) (absurd hheld)
  · exact step_related (s' := { s with fb := f }) (R := fun t t' => { t' with fb := t.fb } = t) hr hr rfl rfl hs
      (by simp [phaseStep_eq, Phase.events_congr s.cfg f s.fb hp]) (fun i _ => by cases i <;> rfl)

/-! ### The sequencer (R25, R27) -/

/-- The choice of the next phase asks for `INI` in `X_TX` alone. -/
theorem Phase.next_congr {p : Phase} (b b' : Bool) (ix : Fin 14) (h : p ≠ .xTx) : p.next b ix = p.next b' ix := by
  cases p <;> simp_all [Phase.next]

/-- The change of `IX` asks for `INI` in `X_TX` alone. -/
theorem Phase.nextIx_congr {p : Phase} (b b' : Bool) (ix : Fin 14) (h : p ≠ .xTx) : p.nextIx b ix = p.nextIx b' ix := by
  cases p <;> simp_all [Phase.nextIx]

/-- Settles O39: of the instructions `INIT` alone raises `INI`, of the phases `I_FINAL` alone lowers it; and what the other
phases do to the other fields is no function of it. -/
theorem initFlagWritersAndReader : Obligations.InitFlagWritersAndReader := by
  intro s t hr hs
  refine ⟨fun hini hini' => ?_, fun hini hini' => ?_, fun hp b => ?_⟩
  · obtain ⟨h, -⟩ | ⟨-, -, rfl⟩ | ⟨-, -, -, rfl⟩ | ⟨-, hp, x, rest, i, hn, hd, rfl⟩ := step_next_cases hs
    · simp [hr] at h
    · simp [phaseStep_eq s, hini] at hini'
    · simp [hini] at hini'
    · obtain rfl : i = .init := by simpa [accept_ini, hini] using hini'
      exact ⟨hp, x, rest, hn, hd⟩
  · obtain ⟨h, -⟩ | ⟨-, -, rfl⟩ | ⟨-, -, -, rfl⟩ | ⟨-, -, x, rest, i, -, -, rfl⟩ := step_next_cases hs
    · simp [hr] at h
    · simpa [phaseStep_eq s, hini] using hini'
    · simp [hini] at hini'
    · simp [accept_ini, hini] at hini'
  · exact step_related (s' := { s with ini := b }) (R := fun t t' => { t' with ini := t.ini } = t) hr hr rfl rfl hs
      (by simp [phaseStep_eq, Phase.next_congr b s.ini s.ix hp, Phase.nextIx_congr b s.ini s.ix hp])
      (fun i _ => by cases i <;> rfl)

/-- Settles O40: in the closed form of a busy step these three fields are functions of these three fields. -/
theorem sequencerDependsOnItselfOnly : Obligations.SequencerDependsOnItselfOnly := by
  intro s s' hr hr' hp hph hini hix
  refine ⟨_, _, step_busy s hr hp, step_busy s' hr' (hph ▸ hp), ?_⟩
  simp [phaseStep_eq, hph, hini, hix]

end Sys2Proof.Machine

/-! ## The order of commands and of a frame's bytes, and a command from its acceptance to its end (20_memory.md) -/

namespace Sys2Proof.Machine

/-- Settles O26: the event of `X_TX` carries `FB` byte by byte. -/
theorem frameGoesOutMarkerLowHigh : Obligations.FrameGoesOutMarkerLowHigh := by
  intro s m b hr hp hf
  have hs := step_busy s hr (by simp [hp])
  obtain ⟨-, htr, -⟩ := step_lines_trace hr hs
  exact ⟨_, hs, by rw [htr, hp, hf]; rfl⟩

/-! ### Runs through the phases (R94 to R98, R112 to R118) -/

section
variable {s : State}

/-- A busy block's run begins with its phase. -/
theorem run_phase (k : Nat) {t : State} (ht : phaseStep s = t) (hr : s.extReset = false) (hp : s.ph ≠ .idle) :
    run (k + 1) s = run k t :=
  ht ▸ run_succ k (step_busy s hr hp)

/-- An idle block's run begins with the acceptance of the word offered first. -/
theorem run_accept (k : Nat) {x : InstrWord} {rest : List Request} {i : Instr} (hr : s.extReset = false)
    (hp : s.ph = .idle) (hn : nextIssue s.host = .offers x rest) (hd : decode x = .ok i) :
    run (k + 1) s = run k (({ s with host := rest } : State).accept i) :=
  run_succ k ((step_offers s x rest i hr hp hn hd).trans (exec_eq_accept i { s with host := rest } hp))

/-- The five phases of a transaction, whichever phase follows it (R100). -/
theorem run_transaction {m b : Byte} (hr : s.extReset = false) (hp : s.ph = .xDesel) (hf : s.fb = encodeFrame m b) :
    run 5 s = .next (afterTransmit { s with
      sel := .low, trace := s.trace ++ txn s.cfg m b, ph := .xTx, draws := s.draws + 1 }) := by
  refine .trans (run_phase 4 (phaseStep_xDesel hp) hr (by simp [hp])) <|
    .trans (run_phase 3 (phaseStep_xWait1 rfl) hr nofun) <| .trans (run_phase 2 (phaseStep_xSel rfl) hr nofun) <|
    .trans (run_phase 1 (phaseStep_xWait2 rfl) hr nofun) <| .trans (run_phase 0 (phaseStep_xTx rfl) hr nofun) ?_
  simp [State.afterTx, txn, hf, lowNibble, highNibble]

/-- A transaction outside an `INIT` run ends in `IDLE`. -/
theorem run_beginSend (m : Mode) (b : Byte) (hr : s.extReset = false) (hp : s.ph = .idle) (hini : s.ini = false) :
    run 5 (s.beginSend m b) = .next { s with
      fb := encodeFrame (m.marker s.cfg) b, fbHeld := true, sel := .low,
      trace := s.trace ++ txn s.cfg (m.marker s.cfg) b, draws := s.draws + 1 } := by
  rw [run_transaction (s := s.beginSend m b) hr rfl rfl]
  simp [State.beginSend, afterTransmit, State.loadFrame, State.goto, hini, hp]

/-- The load of one bring-up byte and its transaction, whichever phase follows it. -/
theorem run_bringUpByte (hr : s.extReset = false) (hp : s.ph = .iLoad) :
    run 6 s = .next (afterTransmit { s with
      fb := encodeFrame s.cfg.markerInstr (initOpAt s.cfg s.ix), fbHeld := true, sel := .low,
      trace := s.trace ++ txn s.cfg s.cfg.markerInstr (initOpAt s.cfg s.ix), ph := .xTx, draws := s.draws + 1 }) := by
  rw [run_phase 5 (phaseStep_iLoad hp) hr (by simp [hp])]
  exact run_transaction hr rfl rfl

/-- The bring-up bytes from index `i` on are the one at `i` and those after it. -/
theorem drop_initOp (c : Cfg) (i : Fin 14) :
    c.initOp.toList.drop i.val = initOpAt c i :: c.initOp.toList.drop (i.val + 1) := by
  rw [List.drop_eq_getElem_cons (by simp)]
  rfl

/-- The bring-up loop from the load of the byte at `IX`, `n` bytes before the last: the bytes from `IX` on are sent in index
order, and the last one's frame stays in `FB` (R116, R117, R119). -/
theorem run_bringUp {n : Nat} (hr : s.extReset = false) (hp : s.ph = .iLoad) (hini : s.ini = true)
    (hn : s.ix.val + n = 13) :
    run (6 * (n + 1)) s = .next { s with
      fb := encodeFrame s.cfg.markerInstr s.cfg.initOp[13], fbHeld := true, sel := .low,
      trace := s.trace ++ initTxns s.cfg (s.cfg.initOp.toList.drop s.ix.val),
      ph := .iFinal, ix := 13, draws := s.draws + (n + 1) } := by
  induction n generalizing s with
  | zero =>
    have hix : s.ix = 13 := Fin.ext hn
    rw [run_bringUpByte hr hp, drop_initOp, List.drop_of_length_le (by simp [hix])]
    simp [afterTransmit, State.goto, initTxns, initOpAt, hini, hix]
  | succ n ih =>
    have hlt : s.ix.val < 13 := by omega
    rw [show 6 * (n + 1 + 1) = 6 + 6 * (n + 1) by omega, run_add (run_bringUpByte hr hp)]
    simp only [afterTransmit, State.goto, hini, hlt, if_true, dif_pos]
    refine (ih ?_ rfl rfl ?_).trans ?_
    · exact hr
    · simp only
      omega
    · rw [drop_initOp s.cfg s.ix]
      simp [initTxns, Nat.add_comm, Nat.add_left_comm]

/-- The phases of an `INIT` run: the pulse, the fourteen bytes, the final select write (R110, R119). -/
theorem run_beginInit (hr : s.extReset = false) (hp : s.ph = .idle) (hix : s.ix = 0) (hini : s.ini = false) :
    run 89 s.beginInit = .next { s with
      fb := encodeFrame s.cfg.markerInstr s.cfg.initOp[13], fbHeld := true,
      sel := s.cfg.postInitSelect, rst := s.cfg.resetActive.other,
      trace := s.trace ++ initTrace s.cfg, draws := s.draws + 14 } := by
  refine .trans (run_phase 88 (phaseStep_rAssert rfl) hr nofun) <|
    .trans (run_phase 87 (phaseStep_rPulse rfl) hr nofun) <| .trans (run_phase 86 (phaseStep_rRelease rfl) hr nofun) <|
    .trans (run_phase 85 (phaseStep_rSettle rfl) hr nofun) <|
    .trans (run_add (j := 6 * 14) (k := 1) (run_bringUp (n := 13) hr rfl rfl rfl)) <|
    .trans (run_phase 0 (phaseStep_iFinal rfl) hr nofun) ?_
  simp [State.beginInit, State.goto, initTrace, hp, hix, hini]

/-! ### A whole command (R91 to R93, R110, R178) -/

/-- The idle state in which a command accepted in the idle state `s` ends. -/
def State.perform (s : State) : Instr → State
  | .nop => s
  | .sendi b => { s with
      fb := encodeFrame s.cfg.markerInstr b, fbHeld := true, sel := .low,
      trace := s.trace ++ txn s.cfg s.cfg.markerInstr b, draws := s.draws + 1 }
  | .sendd b => { s with
      fb := encodeFrame s.cfg.markerData b, fbHeld := true, sel := .low,
      trace := s.trace ++ txn s.cfg s.cfg.markerData b, draws := s.draws + 1 }
  | .init => { s with
      fb := encodeFrame s.cfg.markerInstr s.cfg.initOp[13], fbHeld := true,
      sel := s.cfg.postInitSelect, rst := s.cfg.resetActive.other,
      trace := s.trace ++ initTrace s.cfg, draws := s.draws + 14 }
  | .encode m b => { s with codecOut := s.codecOut ++ [encodeFrame m b] }

/-- From its acceptance a command runs to the state of `perform` in `commandSteps` steps. -/
theorem run_command {x : InstrWord} {rest : List Request} {i : Instr} (hs : s.Inv) (hr : s.extReset = false)
    (hp : s.ph = .idle) (hn : nextIssue s.host = .offers x rest) (hd : decode x = .ok i) :
    run (commandSteps i) s = .next (({ s with host := rest } : State).perform i) := by
  obtain ⟨hix, hini⟩ := hs.idle hp
  cases i with
  | nop =>
    rw [commandSteps, run_accept 0 hr hp hn hd]
    simp [State.accept, State.perform, State.goto, hp]
  | sendi b =>
    rw [commandSteps, run_accept 5 hr hp hn hd]
    exact run_beginSend (s := { s with host := rest }) .instr b hr hp hini
  | sendd b =>
    rw [commandSteps, run_accept 5 hr hp hn hd]
    exact run_beginSend (s := { s with host := rest }) .data b hr hp hini
  | init =>
    rw [commandSteps, run_accept 89 hr hp hn hd]
    exact run_beginInit (s := { s with host := rest }) hr hp hix hini
  | encode m b =>
    rw [commandSteps, run_accept 0 hr hp hn hd]
    rfl

@[simp] theorem State.perform_cfg (s : State) (i : Instr) : (s.perform i).cfg = s.cfg := by cases i <;> rfl
@[simp] theorem State.perform_ph (s : State) (i : Instr) : (s.perform i).ph = s.ph := by cases i <;> rfl
@[simp] theorem State.perform_ix (s : State) (i : Instr) : (s.perform i).ix = s.ix := by cases i <;> rfl
@[simp] theorem State.perform_ini (s : State) (i : Instr) : (s.perform i).ini = s.ini := by cases i <;> rfl
@[simp] theorem State.perform_host (s : State) (i : Instr) : (s.perform i).host = s.host := by cases i <;> rfl
@[simp] theorem State.perform_extReset (s : State) (i : Instr) : (s.perform i).extReset = s.extReset := by cases i <;> rfl

@[simp] theorem State.perform_trace (s : State) (i : Instr) :
    (s.perform i).trace = s.trace ++ commandTrace s.cfg i := by
  cases i <;> simp [State.perform, commandTrace]

/-- A command leaves a codec frame in `FB`, or what was there (R22). -/
theorem State.Inv.perform (hs : s.Inv) (hp : s.ph = .idle) (i : Instr) : (s.perform i).Inv := by
  obtain ⟨hix, hini, hf⟩ := (inv_iff_of_idle hp).1 hs
  refine (inv_iff_of_idle (by simpa using hp)).2 ⟨by simpa using hix, by simpa using hini, ?_⟩
  cases i with
  | nop => exact hf
  | sendi b => exact fun _ => encodeFrame_marker_wf s.cfg .instr b
  | sendd b => exact fun _ => encodeFrame_marker_wf s.cfg .data b
  | init => exact fun _ => encodeFrame_marker_wf s.cfg .instr _
  | encode m b => exact hf

end

/-- Settles O56, by induction on the commands: each runs to an idle state with the invariant, from which the others run. -/
theorem commandsArePerformedInOrder : Obligations.CommandsArePerformedInOrder := by
  intro words cmds
  induction cmds generalizing words with
  | nil =>
    intro s rest _ _ hp hd hh
    obtain rfl : words = [] := List.map_eq_nil_iff.1 hd
    exact ⟨s, rfl, hp, hh, rfl, by simp⟩
  | cons i cmds ih =>
    intro s rest hs hr hp hd hh
    obtain ⟨x, words, rfl, hx, hd⟩ := List.map_eq_cons_iff.1 hd
    have hrun := run_command (rest := words.map .word ++ rest) hs hr hp (by rw [hh]; rfl) hx
    have hinv := (hs.withOutside s.extReset (words.map .word ++ rest)).perform hp i
    obtain ⟨t, ht, htp, hth, htc, htt⟩ := ih words _ rest hinv (by simpa using hr) (by simpa using hp) hd (by simp)
    refine ⟨t, ?_, htp, hth, by simpa using htc, by simpa using htt⟩
    rw [List.map_cons, List.sum_cons, run_add hrun, ht]

end Sys2Proof.Machine

/-! ## Encoding: command words, the receiver, the text form and the transmitted frames (30_encoding.md) -/

namespace Sys2Proof

/-! ### Words and the instructions they decode to (R60, R66, R67, R69) -/

/-- Every command word is built from one of the four operation fields, which names its command (R67, R69). -/
theorem decodeCommand_cases (w : BitVec 10) :
    (w = commandWord 0#2 (byteField w) ∧ decodeCommand w = .nop) ∨
    (w = commandWord 1#2 (byteField w) ∧ decodeCommand w = .sendi (byteField w)) ∨
    (w = commandWord 2#2 (byteField w) ∧ decodeCommand w = .sendd (byteField w)) ∨
    (w = commandWord 3#2 (byteField w) ∧ decodeCommand w = .init) := by
  have hop : ∀ op : BitVec 2, op = 0#2 ∨ op = 1#2 ∨ op = 2#2 ∨ op = 3#2 := by decide
  have hw := (Machine.commandWord_fields w).symm
  obtain h | h | h | h := hop (opField w) <;> rw [h] at hw
  · exact .inl ⟨hw, by simp [decodeCommand, h]⟩
  · exact .inr (.inl ⟨hw, by simp [decodeCommand, h]⟩)
  · exact .inr (.inr (.inl ⟨hw, by simp [decodeCommand, h]⟩))
  · exact .inr (.inr (.inr ⟨hw, by simp [decodeCommand, h]⟩))

/-- Settles O2: the mask leaves the operation field in place, which names the row. -/
theorem everyCommandWordSpellsItsCommand : Obligations.EveryCommandWordSpellsItsCommand := by
  intro w
  have hbyte : w.setWidth 8 = byteField w := BitVec.setWidth_eq_extractLsb' (by decide)
  have hmask (op : BitVec 2) (h : w = commandWord op (byteField w)) : w &&& 0x300#10 = op.setWidth 10 <<< 8 := by
    rw [h, Laws.RowMatch.commandWord_masked]
  obtain ⟨hw, hd⟩ | ⟨hw, hd⟩ | ⟨hw, hd⟩ | ⟨hw, hd⟩ := decodeCommand_cases w <;>
    simp [hmask _ hw, decode, hd, hbyte]

/-- A nibble of an `F3` word that is zero is zero bit by bit. -/
theorem getElem_of_extractLsb'_eq_zero {w : BitVec 24} {k : Nat} (h : w.extractLsb' k 4 = 0#4) (i : Nat) (hi : i < 24)
    (hk : k ≤ i) (hk' : i < k + 4) : w[i] = false := by
  obtain ⟨j, rfl⟩ := Nat.exists_eq_add_of_le hk
  have hj : j < 4 := by omega
  simpa [hj, hi] using congrArg (·.getLsbD j) h

/-- An `F3` word whose fixed bits are zero is made up by its marker and its two low nibbles (R60). -/
theorem f3Word_fields {w : BitVec 24} (h₁ : w.extractLsb' 12 4 = 0#4) (h₂ : w.extractLsb' 4 4 = 0#4) :
    f3Word (w.extractLsb' 16 8) ((w.extractLsb' 0 4).setWidth 8 <<< 4 ||| (w.extractLsb' 8 4).setWidth 8) = w := by
  have hz₁ := getElem_of_extractLsb'_eq_zero h₁
  have hz₂ := getElem_of_extractLsb'_eq_zero h₂
  ext i hi
  simp only [f3Word]
  interval_cases i <;> simp [hz₁, hz₂]

/-- Nothing of an `F3` word is lost in decoding it (R60). -/
theorem encodeInstr_of_decodeF3 {w : BitVec 24} {i : Instr} (h : decodeF3 w = .ok i) : encodeInstr i = .f3 w := by
  unfold decodeF3 at h
  split at h
  next hz =>
    obtain ⟨h₁, h₂⟩ := hz
    cases h
    exact congrArg InstrWord.f3 (f3Word_fields h₁ h₂)
  next => cases h

/-- Settles O4: the fields make up the word, and `NOP` and `INIT` are the two that drop the byte field. -/
theorem encodeOfDecodeIsTheWord : Obligations.EncodeOfDecodeIsTheWord := by
  intro x i h
  cases x with
  | cw w =>
    obtain rfl : decodeCommand w = i := Except.ok.inj h
    obtain ⟨hw, hd⟩ | ⟨hw, hd⟩ | ⟨hw, hd⟩ | ⟨hw, hd⟩ := decodeCommand_cases w <;> rw [hd]
    · exact .inr (.inl ⟨rfl, _, congrArg InstrWord.cw hw⟩)
    · exact .inl (congrArg InstrWord.cw hw.symm)
    · exact .inl (congrArg InstrWord.cw hw.symm)
    · exact .inr (.inr ⟨rfl, _, congrArg InstrWord.cw hw⟩)
  | f3 w => exact .inl (encodeInstr_of_decodeF3 h)

end Sys2Proof

namespace Sys2Proof.Machine

/-! ### Transmitted frames (R22, R30, R65) -/

/-- The only event of which well-formedness asks anything is the transmit, and in `X_TX` the buffer holds a frame. -/
theorem State.Inv.events_wf {s : State} (hs : s.Inv) : ∀ e ∈ s.ph.events s.cfg s.fb, e.wf s.cfg = true := by
  cases hp : s.ph with
  | xTx =>
    have hf : s.fb.wf s.cfg = true := hs.frame (hs.held (by rw [hp]; rfl))
    simp [Phase.events, Event.wf, hf]
  | _ => simp [Phase.events, Event.wf]

/-- Settles O47: a reset empties the trace, and every other step appends its phase's events. -/
theorem stepKeepsTransmittedFramesWellFormed : Obligations.StepKeepsTransmittedFramesWellFormed := by
  intro s t hs htrace hst e he
  cases hr : s.extReset with
  | true =>
    rw [step_extReset s hr] at hst
    cases hst
    simp at he
  | false =>
    obtain ⟨hcfg, htr, -⟩ := step_lines_trace hr hst
    rw [htr, List.mem_append] at he
    rw [hcfg]
    exact he.elim (htrace e) (hs.events_wf e)

/-! ### The receiver (R63, R83) -/

theorem getLsbD_lowNibble (b : Byte) (i : Nat) : (lowNibble b).getLsbD i = (b.getLsbD i && decide (i < 4)) := by
  rw [lowNibble, BitVec.getLsbD_and, show 0x0F#8 = BitVec.ofNat 8 (2 ^ 4 - 1) from rfl, BitVec.getLsbD_ofNat,
    Nat.testBit_two_pow_sub_one]
  by_cases hi : i < 4
  · simp [hi, show i < 8 by omega]
  · simp [hi]

theorem getLsbD_highNibble (b : Byte) (i : Nat) : (highNibble b).getLsbD i = b.getLsbD (4 + i) := by
  simp [highNibble]

/-- The two nibbles of a byte, put in place at any width, are the byte at that width (R83). -/
theorem nibbles_setWidth (b : Byte) (n : Nat) :
    (lowNibble b).setWidth n ||| ((highNibble b).setWidth n <<< 4) = b.setWidth n := by
  ext i hi
  by_cases h : i < 4
  · simp [getLsbD_lowNibble, h]
  · simp [getLsbD_lowNibble, getLsbD_highNibble, h, show 4 + (i - 4) = i by omega]

/-- The receiver's mask leaves a nibble as it is. -/
theorem and_0x0F_of_lt {b : Byte} (h : b.toNat < 16) : b &&& 0x0F#8 = b := by
  apply BitVec.eq_of_toNat_eq
  rw [← lowNibble, lowNibble_toNat, Nat.mod_eq_of_lt h]

/-- Settles O6: the mask does nothing to a codec frame, so the masked form is the unmasked one at 8 bits. -/
theorem receiverRebuildsSourceByte : Obligations.ReceiverRebuildsSourceByte := by
  refine fun m b => ⟨?_, rfl, fun n _ => nibbles_setWidth b n⟩
  rw [encodeFrame_b1, encodeFrame_b2, and_0x0F_of_lt (lowNibble_lt b), and_0x0F_of_lt (highNibble_lt b)]
  simpa using nibbles_setWidth b 8

/-! ### The text form (R72, R73) -/

/-- What may stand after a command in its line: nothing, or a blank and a comment (R72). -/
def IsTrailer (cs : List Char) : Prop := cs = [] ∨ ∃ comment, cs = ' ' :: ';' :: comment

/-- A word is read up to where it ends. -/
theorem readWord_append {word tail : List Char} (hw : ∀ c ∈ word, isBlank c = false ∧ startsComment c = false)
    (ht : readWord tail = ([], tail)) : readWord (word ++ tail) = (word, tail) := by
  induction word with
  | nil => exact ht
  | cons c cs ih =>
    obtain ⟨hb, hc⟩ := hw c List.mem_cons_self
    rw [List.cons_append, readWord, ih fun d hd => hw d (List.mem_cons_of_mem c hd)]
    simp [hb, hc]

/-- A line that begins with a command's word is assembled as that command, when nothing else stands after it. -/
theorem assembleLine_of_readCommand {c : Char} {word operands rest : List Char} {r : Request}
    (hw : ∀ d ∈ c :: word, isBlank d = false ∧ startsComment d = false) (ho : readWord operands = ([], operands))
    (hr : readCommand (c :: word) operands = .ok (r, rest)) (he : endOfLine rest = true) :
    assembleLine (c :: word ++ operands) = .ok (some r) := by
  obtain ⟨hb, hc⟩ := hw c List.mem_cons_self
  have hskip : skipBlanks (c :: word ++ operands) = c :: word ++ operands := by simp [skipBlanks, hb]
  have hline : endOfLine (c :: word ++ operands) = false := by simp [endOfLine, skipBlanks, hb, hc]
  rw [assembleLine, hline, hskip, readWord_append hw ho]
  simp [hr, he]

theorem digitValue_hexDigit : ∀ n : Nibble, digitValue 16 (hexDigit n) = some n.toNat := by decide

theorem toNat_nibbles (b : Byte) : (b.extractLsb' 4 4).toNat * 16 + (b.extractLsb' 0 4).toNat = b.toNat := by
  have hb := b.isLt
  simp only [BitVec.extractLsb'_toNat, Nat.shiftRight_eq_div_pow]
  omega

section
variable {tail : List Char}

theorem IsTrailer.endOfLine (ht : IsTrailer tail) : endOfLine tail = true := by
  obtain rfl | ⟨comment, rfl⟩ := ht <;> rfl

theorem IsTrailer.readWord (ht : IsTrailer tail) : readWord tail = ([], tail) := by
  obtain rfl | ⟨comment, rfl⟩ := ht <;> rfl

theorem IsTrailer.readDigits (ht : IsTrailer tail) (base acc : Nat) : readDigits base acc tail = (acc, tail) := by
  obtain rfl | ⟨comment, rfl⟩ := ht
  · rfl
  · simp [Machine.readDigits, digitValue]

/-- The two digits the disassembler prints are read as the byte's number. -/
theorem readNumber_hexByte (b : Byte) (ht : IsTrailer tail) : readNumber (hexByte b ++ tail) = some (b.toNat, tail) := by
  have hdigits : readNumber (hexByte b ++ tail) =
      some ((b.extractLsb' 4 4).toNat * 16 + (b.extractLsb' 0 4).toNat, tail) := by
    simp only [hexByte, List.cons_append, List.nil_append, readNumber, and_self, if_true, digitValue_hexDigit,
      Option.map_some, readDigits, ht.readDigits]
  rw [hdigits, toNat_nibbles]

/-- What the disassembler prints for a byte is no quoted character, and is read as that byte. -/
theorem readByte_hexByte (b : Byte) (ht : IsTrailer tail) : readByte (hexByte b ++ tail) = .ok (b, tail) := by
  have hnumeric : readByte (hexByte b ++ tail) = readNumericByte (hexByte b ++ tail) := rfl
  simp [hnumeric, readNumericByte, readNumber_hexByte b ht, b.isLt]

/-- The text of an instruction, whatever trails it, is read back as that instruction's word. -/
theorem assembleLine_textOf {i : Instr} {text : List Char} (hi : textOf i = some text) (ht : IsTrailer tail) :
    assembleLine (text ++ tail) = .ok (some (.word (encodeInstr i))) := by
  have hbyte (b : Byte) : readByte (skipBlanks (' ' :: hexByte b ++ tail)) = .ok (b, tail) := readByte_hexByte b ht
  cases i with
  | nop =>
    cases hi
    exact assembleLine_of_readCommand (word := ['O', 'P']) (by simp [isBlank, startsComment]) ht.readWord rfl
      ht.endOfLine
  | sendi b =>
    cases hi
    exact assembleLine_of_readCommand (word := ['E', 'N', 'D', 'I']) (operands := ' ' :: hexByte b ++ tail)
      (by simp [isBlank, startsComment]) rfl (by rw [readCommand, hbyte]; rfl) ht.endOfLine
  | sendd b =>
    cases hi
    exact assembleLine_of_readCommand (word := ['E', 'N', 'D', 'D']) (operands := ' ' :: hexByte b ++ tail)
      (by simp [isBlank, startsComment]) rfl (by rw [readCommand, hbyte]; rfl) ht.endOfLine
  | init =>
    cases hi
    exact assembleLine_of_readCommand (word := ['N', 'I', 'T']) (by simp [isBlank, startsComment]) ht.readWord rfl
      ht.endOfLine
  | encode m b => cases hi

end

/-- Every command word has a text (R69, R73). -/
theorem exists_disassemble (w : BitVec 10) : ∃ text, disassemble w = some text := by
  obtain ⟨-, hd⟩ | ⟨-, hd⟩ | ⟨-, hd⟩ | ⟨-, hd⟩ := decodeCommand_cases w <;> exact ⟨_, by rw [disassemble, hd]; rfl⟩

/-- Settles O5: a trailer, empty or a comment, is all that stands after the text. -/
theorem disassembledTextAssemblesBack : Obligations.DisassembledTextAssemblesBack := by
  intro w comment
  obtain ⟨text, h⟩ := exists_disassemble w
  refine ⟨text, h, ?_, assembleLine_textOf h (.inr ⟨comment, rfl⟩)⟩
  simpa using assembleLine_textOf h (.inl rfl)

end Sys2Proof.Machine

/-! ## The Frame Codec: frames, the byte a receiver rebuilds, and the nibbles as numbers (40_frame_codec.md) -/

namespace Sys2Proof.Machine

/-! ### Encode (R80, R86) -/

/-- Settles O15: the codec's row answers alike in every phase, idle or busy. -/
theorem encodeReturnsTheFrame : Obligations.EncodeReturnsTheFrame := fun _ _ _ => rfl

/-- Settles O10: a codec frame carries the two nibbles, so (c) is division with remainder. -/
theorem nibblesAreRemainderAndQuotient : Obligations.NibblesAreRemainderAndQuotient := by
  intro m b
  rw [encodeFrame_b1, encodeFrame_b2, lowNibble_toNat, highNibble_toNat]
  exact ⟨rfl, rfl, (Nat.div_add_mod b.toNat 16).symm⟩

/-! ### Extract (R82, R83) -/

/-- The shifted nibble and the unshifted one have no bit in common, so `Extract` adds them, and the sum fits a byte. -/
theorem extractByte_toNat (f : Frame) : (extractByte f).toNat = 16 * (f.b2.toNat % 16) + f.b1.toNat % 16 := by
  have hlow := lowNibble_lt f.b1
  have hhigh := lowNibble_lt f.b2
  have hfits : (lowNibble f.b2).toNat <<< 4 % 2 ^ 8 = (lowNibble f.b2).toNat <<< 4 :=
    Nat.mod_eq_of_lt (by rw [Nat.shiftLeft_eq]; omega)
  calc (extractByte f).toNat
      = (lowNibble f.b2).toNat <<< 4 % 2 ^ 8 ||| (lowNibble f.b1).toNat := rfl
    _ = (lowNibble f.b2).toNat <<< 4 + (lowNibble f.b1).toNat := by rw [hfits, Nat.shiftLeft_add_eq_or_of_lt hlow]
    _ = 16 * (f.b2.toNat % 16) + f.b1.toNat % 16 := by
      rw [lowNibble_toNat, lowNibble_toNat, Nat.shiftLeft_eq, Nat.mul_comm]

/-- Settles O7: the sum of the two nibbles in place, on any triple of bytes. -/
theorem extractReadsTheLowNibbles : Obligations.ExtractReadsTheLowNibbles := fun f => ⟨extractByte_toNat f, rfl⟩

/-- `Extract` is a left inverse of `Encode` (R83). -/
@[simp] theorem extractByte_encodeFrame (m b : Byte) : extractByte (encodeFrame m b) = b := by
  apply BitVec.eq_of_toNat_eq
  rw [extractByte_toNat, encodeFrame_b1, encodeFrame_b2, lowNibble_toNat, highNibble_toNat]
  omega

/-- `Extract` is a right inverse on the triples whose second and third byte are nibbles (R85). -/
theorem encodeFrame_extractByte {f : Frame} (h₁ : f.b1.toNat < 16) (h₂ : f.b2.toNat < 16) :
    encodeFrame f.b0 (extractByte f) = f := by
  have hlow : lowNibble (extractByte f) = f.b1 := by
    apply BitVec.eq_of_toNat_eq
    rw [lowNibble_toNat, extractByte_toNat]
    omega
  have hhigh : highNibble (extractByte f) = f.b2 := by
    apply BitVec.eq_of_toNat_eq
    rw [highNibble_toNat, extractByte_toNat]
    omega
  rw [encodeFrame, hlow, hhigh]

/-! ### Injectivity (R84) -/

theorem encodeFrame_inj {m m' b b' : Byte} : encodeFrame m b = encodeFrame m' b' ↔ m = m' ∧ b = b' := by
  constructor
  · intro h
    exact ⟨congrArg markerOf h, by simpa using congrArg extractByte h⟩
  · rintro ⟨rfl, rfl⟩
    rfl

/-- The marker tells the kind of transaction under the constraint of R11. -/
theorem Mode.marker_injective {c : Cfg} (hc : c.wf = true) : Function.Injective (Mode.marker c) := by
  have hne : c.markerInstr ≠ c.markerData := bne_iff_ne.mp hc
  intro k k' h
  cases k <;> cases k'
  case instr.data => exact absurd h hne
  case data.instr => exact absurd h.symm hne
  all_goals rfl

/-- Settles O9: a frame gives back its marker and its byte, and different markers give back the kind. -/
theorem encodeIsInjective : Obligations.EncodeIsInjective := by
  refine ⟨fun _ _ _ _ => encodeFrame_inj, fun c hc k k' b b' h => ?_⟩
  obtain ⟨hm, hb⟩ := encodeFrame_inj.mp h
  exact ⟨Mode.marker_injective hc hm, hb⟩

/-! ### Well-formed triples (R85) -/

theorem frame_wf_iff (c : Cfg) (f : Frame) :
    f.wf c = true ↔ (f.b0 = c.markerInstr ∨ f.b0 = c.markerData) ∧ f.b1.toNat < 16 ∧ f.b2.toNat < 16 := by
  simp [Frame.wf, BitVec.lt_def, and_assoc]

theorem exists_marker_iff (c : Cfg) (x : Byte) : (∃ m : Mode, x = m.marker c) ↔ x = c.markerInstr ∨ x = c.markerData := by
  constructor
  · rintro ⟨m, rfl⟩
    cases m with
    | instr => exact .inl rfl
    | data => exact .inr rfl
  · rintro (h | h)
    · exact ⟨.instr, h⟩
    · exact ⟨.data, h⟩

/-- `Encode` rebuilds a well-formed triple from its first byte and its `Extract` (R85). -/
theorem encodeFrame_extractByte_of_wf {c : Cfg} {f : Frame} (h : f.wf c = true) :
    encodeFrame f.b0 (extractByte f) = f := by
  obtain ⟨-, h₁, h₂⟩ := (frame_wf_iff c f).mp h
  exact encodeFrame_extractByte h₁ h₂

/-- Settles O8: the byte of which a well-formed triple is the frame is its `Extract`. -/
theorem wellFormedFramesAreTheEncodedOnes : Obligations.WellFormedFramesAreTheEncodedOnes := by
  refine fun c f => ⟨frame_wf_iff c f, ⟨fun h => ?_, ?_⟩, encodeFrame_extractByte_of_wf⟩
  · obtain ⟨hmarker, -⟩ := (frame_wf_iff c f).mp h
    obtain ⟨m, hm⟩ := (exists_marker_iff c f.b0).mpr hmarker
    exact ⟨m, extractByte f, by rw [← hm, encodeFrame_extractByte_of_wf h]⟩
  · rintro ⟨m, b, rfl⟩
    exact encodeFrame_marker_wf c m b

end Sys2Proof.Machine

/-! ## The bus transaction: acceptance, the five phases, and a command's way back to `IDLE` (41_bus_transaction.md) -/

namespace Sys2Proof.Machine

/-! ### Accepting a command, or holding it (R28, R90 to R93) -/

section
variable {s : State}

theorem State.goto_of_ph {p : Phase} (hp : s.ph = p) : s.goto p = s := by
  subst hp
  rfl

/-- A busy block holds every command; the codec's row is none (R68, R90). -/
theorem exec_busy {i : Instr} (hp : s.ph ≠ .idle) (hi : ∀ m b, i ≠ .encode m b) : exec i s = .next (s.hold i) := by
  cases i with
  | nop => exact acceptInIdle_busy .nop (fun s => s.goto .idle) s hp
  | sendi b => exact acceptInIdle_busy (.sendi b) _ s hp
  | sendd b => exact acceptInIdle_busy (.sendd b) _ s hp
  | init => exact acceptInIdle_busy .init _ s hp
  | encode m b => exact absurd rfl (hi m b)

end

/-- Settles O11: the acceptance sets the phase to the one it has. -/
theorem nopLeavesEverything : Obligations.NopLeavesEverything := fun s hp =>
  (exec_eq_accept .nop s hp).trans (congrArg _ (State.goto_of_ph hp))

/-- Settles O12: the codec's frame is the marker and the two nibbles. -/
theorem sendiLoadsInstructionFrame : Obligations.SendiLoadsInstructionFrame := fun s b hp =>
  exec_eq_accept (.sendi b) s hp

/-- Settles O13: the codec's frame is the marker and the two nibbles. -/
theorem senddLoadsDataFrame : Obligations.SenddLoadsDataFrame := fun s b hp =>
  exec_eq_accept (.sendd b) s hp

/-- Settles O16: to hold a command is to put its word in front of the list. -/
theorem busyBlockKeepsOfferedCommand : Obligations.BusyBlockKeepsOfferedCommand := fun _ _ hp hi =>
  exec_busy hp hi

/-! ### What the host offers (R28, R90) -/

/-- Settles O18: a word is offered as it is. -/
theorem stepRunsTheDecodedInstruction : Obligations.StepRunsTheDecodedInstruction := fun s x i rest hr hp hh hd =>
  step_offers s x rest i hr hp (by rw [hh]; rfl) hd

/-- Settles O20: an empty list offers nothing. -/
theorem idleBlockWaits : Obligations.IdleBlockWaits := by
  intro s hr hp hh
  rw [step_idle s hr hp, hh]
  rfl

/-- No phase reads or changes the host's list. -/
theorem phaseStep_withHost (s : State) (h : List Request) :
    phaseStep { s with host := h } = { phaseStep s with host := h } := by
  simp only [phaseStep_eq]

/-- Settles O21: a busy step is its phase, and no phase looks at the list. -/
theorem busyBlockIgnoresTheHost : Obligations.BusyBlockIgnoresTheHost := by
  intro s hr hp
  obtain ⟨-, hhost, -⟩ := phaseStep_frame s
  refine ⟨phaseStep s, step_busy s hr hp, hhost, fun h => ?_⟩
  rw [step_busy { s with host := h } hr hp, phaseStep_withHost]

/-! ### The five phases (R94 to R99) -/

/-- A step in a busy phase answers what the phase leaves. -/
theorem step_phase {s t : State} {p : Phase} (ht : phaseStep s = t) (hr : s.extReset = false) (hp : s.ph = p)
    (hbusy : p ≠ .idle) : step s = .next t :=
  ht ▸ step_busy s hr (hp ▸ hbusy)

/-- Settles O22, with what the phase leaves. -/
theorem deselectPhase : Obligations.DeselectPhase := fun _ hr hp => step_phase (phaseStep_xDesel hp) hr hp nofun

/-- Settles O23, with what the phase leaves. -/
theorem reselectPhase : Obligations.ReselectPhase := fun _ hr hp => step_phase (phaseStep_xSel hp) hr hp nofun

/-- Settles O24, with what each of the two phases leaves. -/
theorem settleDelayPhases : Obligations.SettleDelayPhases := fun _ hr =>
  ⟨fun hp => step_phase (phaseStep_xWait1 hp) hr hp nofun, fun hp => step_phase (phaseStep_xWait2 hp) hr hp nofun⟩

/-- The answer a transmit gets is no part of what `X_TX` leaves (R99). -/
theorem phaseXTx_eq (r : TxAnswer) (s : State) : phaseXTx r s = afterTransmit s.afterTx := rfl

/-- Settles O25: whatever the answer, the block goes on from `afterTx` as `INI` and `IX` say. -/
theorem transmitPhase : Obligations.TransmitPhase := by
  intro s r hr hp
  refine ⟨step_phase ((phaseStep_xTx hp).trans (phaseXTx_eq r s).symm) hr hp nofun, ?_⟩
  rintro t rfl
  exact ⟨fun hi => step_phase (phaseStep_xTx_send hp hi) hr hp nofun,
    fun hi hx => step_phase (phaseStep_xTx_next hp hi hx) hr hp nofun,
    fun hi hx => step_phase (phaseStep_xTx_last hp hi hx) hr hp nofun⟩

/-- Settles O27: the counter that chooses the answer is read by no phase and by no acceptance, but to count on. -/
theorem transmitAnswersAreDropped : Obligations.TransmitAnswersAreDropped := by
  intro s t n hr hs
  refine ⟨fun r r' => (phaseXTx_eq r s).trans (phaseXTx_eq r' s).symm, ?_⟩
  exact step_related (s' := { s with draws := n }) (R := fun t t' => { t' with draws := t.draws } = t) hr hr rfl rfl hs
    (by simp [phaseStep_eq]) (fun i _ => by cases i <;> rfl)

/-! ### The count of steps to `IDLE` (R103, R121, R178) -/

section
variable {s : State}

theorem stepsToIdle_eq_zero_iff : stepsToIdle s = 0 ↔ s.ph = .idle := by
  cases hp : s.ph <;> simp [stepsToIdle, hp]

/-- The transmit ends a send, or leaves the rest of the bring-up bytes (R98, R117). -/
theorem stepsToIdle_afterTransmit (hp : s.ph = .xTx) : stepsToIdle (afterTransmit s) + 1 = stepsToIdle s := by
  obtain ⟨hini, e⟩ | ⟨hini, hx, e⟩ | ⟨hini, hx, e⟩ := afterTransmit_cases s
  · simp [e, stepsToIdle, hp, hini]
  · simp only [e, stepsToIdle, hp, hini, if_true]
    omega
  · simp [e, stepsToIdle, hp, hini, hx]

/-- A phase brings `IDLE` nearer by one: in the pulse and after it `INI` and `IX` have the values the count takes for
granted, and within a byte only the phase moves. -/
theorem State.Inv.stepsToIdle_phaseStep (hs : s.Inv) (hbusy : s.ph ≠ .idle) :
    stepsToIdle (Machine.phaseStep s) + 1 = stepsToIdle s := by
  cases hp : s.ph with
  | idle => exact absurd hp hbusy
  | rAssert => simp [phaseStep_rAssert hp, stepsToIdle, hp]
  | rPulse => simp [phaseStep_rPulse hp, stepsToIdle, hp]
  | rRelease => simp [phaseStep_rRelease hp, stepsToIdle, hp]
  | rSettle =>
    obtain ⟨hix, hini, -⟩ := (inv_iff_of_inResetPulse (by rw [hp]; rfl)).1 hs
    simp [phaseStep_rSettle hp, stepsToIdle, hp, hix, hini]
  | iLoad => simp [phaseStep_iLoad hp, stepsToIdle, hp, Nat.add_right_comm]
  | xDesel => simp [phaseStep_xDesel hp, stepsToIdle, hp, Nat.add_right_comm]
  | xWait1 => simp [phaseStep_xWait1 hp, stepsToIdle, hp, Nat.add_right_comm]
  | xSel => simp [phaseStep_xSel hp, stepsToIdle, hp, Nat.add_right_comm]
  | xWait2 => simp [phaseStep_xWait2 hp, stepsToIdle, hp, Nat.add_right_comm]
  | xTx =>
    rw [Machine.phaseStep_xTx hp]
    exact stepsToIdle_afterTransmit (s := s.afterTx) hp
  | iFinal => simp [phaseStep_iFinal hp, stepsToIdle, hp]

/-- No command is further from its end than `INIT` at its start. -/
theorem stepsToIdle_le (s : State) : stepsToIdle s ≤ 89 := by
  have hloop : (if s.ini then 6 * (13 - s.ix.val) + 1 else 0) ≤ 79 := by split <;> omega
  cases hp : s.ph <;> simp only [stepsToIdle, hp] <;> omega

/-- `stepsToIdle` counts what it says: as long as it lasts, `k` steps of the run take `k` off it, and the host's list waits. -/
theorem State.Inv.run_countdown {k : Nat} (hs : s.Inv) (hr : s.extReset = false) (hk : k ≤ stepsToIdle s) :
    ∃ t, run k s = .next t ∧ stepsToIdle t + k = stepsToIdle s ∧ t.host = s.host := by
  induction k generalizing s with
  | zero => exact ⟨s, rfl, rfl, rfl⟩
  | succ k ih =>
    have hbusy : s.ph ≠ .idle := fun hp => by
      have := stepsToIdle_eq_zero_iff.2 hp
      omega
    have hcount := hs.stepsToIdle_phaseStep hbusy
    obtain ⟨-, hhost, hreset, -⟩ := phaseStep_frame s
    obtain ⟨t, hrun, ht, hth⟩ := ih hs.phaseStep (hreset.trans hr) (by omega)
    exact ⟨t, (run_phase k rfl hr hbusy).trans hrun, by omega, hth.trans hhost⟩

/-- An acceptance leaves the rest of the command's steps (R178). -/
theorem State.Inv.stepsToIdle_accept (hs : s.Inv) (hp : s.ph = .idle) (i : Instr) :
    stepsToIdle (s.accept i) + 1 = commandSteps i := by
  obtain ⟨-, hini⟩ := hs.idle hp
  cases i <;> simp [State.accept, State.beginSend, State.beginInit, stepsToIdle, commandSteps, hp, hini]

/-- Between its acceptance and its end a command keeps the block busy (R28, R178). -/
theorem run_command_busy {x : InstrWord} {rest : List Request} {i : Instr} {k : Nat} (hs : s.Inv)
    (hr : s.extReset = false) (hp : s.ph = .idle) (hn : nextIssue s.host = .offers x rest) (hd : decode x = .ok i)
    (hpos : 0 < k) (hk : k < commandSteps i) : ∃ t, run k s = .next t ∧ t.busy = true := by
  obtain ⟨k, rfl⟩ := Nat.exists_eq_add_one.2 hpos
  have hs' : ({ s with host := rest } : State).Inv := hs.withOutside s.extReset rest
  have hsteps := hs'.stepsToIdle_accept hp i
  have hreset : (({ s with host := rest } : State).accept i).extReset = false := by cases i <;> exact hr
  obtain ⟨t, hrun, ht, -⟩ := (hs'.accept hp i).run_countdown (k := k) hreset (by omega)
  refine ⟨t, (run_accept k hr hp hn hd).trans hrun, t.busy_iff.2 fun hidle => ?_⟩
  have := stepsToIdle_eq_zero_iff.2 hidle
  omega

end

/-- Settles O49, phase by phase. -/
theorem busyStepsCountDownToIdle : Obligations.BusyStepsCountDownToIdle := fun s hs hr hp =>
  ⟨phaseStep s, step_busy s hr hp, hs.stepsToIdle_phaseStep hp, stepsToIdle_eq_zero_iff.symm⟩

/-- Settles O50: at the end of the countdown the count is 0. -/
theorem everyRunningCommandEnds : Obligations.EveryRunningCommandEnds := by
  intro s hs hr
  obtain ⟨t, hrun, ht, hhost⟩ := hs.run_countdown hr le_rfl
  exact ⟨stepsToIdle_le s, t, hrun, stepsToIdle_eq_zero_iff.1 (by omega), hhost⟩

/-- Settles O51: the whole command's run, and its countdown in between. -/
theorem sendiSendsOneInstructionFrame : Obligations.SendiSendsOneInstructionFrame := by
  intro s x b rest hs hr hp hh hd
  have hn : nextIssue s.host = .offers x rest := by rw [hh]; rfl
  exact ⟨run_command hs hr hp hn hd, fun k => run_command_busy hs hr hp hn hd⟩

/-- Settles O52: the whole command's run, and its countdown in between. -/
theorem senddSendsOneDataFrame : Obligations.SenddSendsOneDataFrame := by
  intro s x b rest hs hr hp hh hd
  have hn : nextIssue s.host = .offers x rest := by rw [hh]; rfl
  exact ⟨run_command hs hr hp hn hd, fun k => run_command_busy hs hr hp hn hd⟩

end Sys2Proof.Machine

/-! ## The display bring-up: `INIT` from its acceptance to its end, phase by phase and as a whole (42_display_init.md) -/

namespace Sys2Proof.Machine

/-! ### Acceptance (R111) -/

/-- An acceptance leaves the host's list, its wish for a reset and the count of draws alone. -/
theorem accept_host_extReset_draws (s : State) (i : Instr) :
    (s.accept i).host = s.host ∧ (s.accept i).extReset = s.extReset ∧ (s.accept i).draws = s.draws := by
  cases i <;> exact ⟨rfl, rfl, rfl⟩

/-- `INIT` is the instruction that sets `IX` and `INI` when accepted (R26, R27). -/
theorem accept_ix_ini_of_ne_init (s : State) {i : Instr} (hi : i ≠ .init) :
    (s.accept i).ix = s.ix ∧ (s.accept i).ini = s.ini := by
  cases i with
  | nop => exact ⟨rfl, rfl⟩
  | sendi b => exact ⟨rfl, rfl⟩
  | sendd b => exact ⟨rfl, rfl⟩
  | init => exact absurd rfl hi
  | encode m b => exact ⟨rfl, rfl⟩

/-- The codec's row is the one whose acceptance returns a frame (R80). -/
theorem accept_codecOut_of_ne_encode (s : State) {i : Instr} (hi : ∀ m b, i ≠ .encode m b) :
    (s.accept i).codecOut = s.codecOut := by
  cases i with
  | nop => rfl
  | sendi b => rfl
  | sendd b => rfl
  | init => rfl
  | encode m b => exact absurd rfl (hi m b)

/-- Settles O17, from what the accepted instruction's state keeps field by field. -/
theorem acceptanceDrivesNoLineAndEmitsNothing : Obligations.AcceptanceDrivesNoLineAndEmitsNothing := by
  intro i s t hp h
  rw [exec_eq_accept i s hp] at h
  cases h
  obtain ⟨hcfg, htrace, hsel, hrst⟩ := accept_lines_trace s i
  obtain ⟨hhost, hreset, hdraws⟩ := accept_host_extReset_draws s i
  exact ⟨hcfg, hsel, hrst, htrace, hhost, hreset, hdraws, accept_fb_of_not_send s, accept_ix_ini_of_ne_init s,
    accept_codecOut_of_ne_encode s⟩

/-- Settles O14, with the state of `INIT`'s acceptance. -/
theorem initStartsTheResetPulse : Obligations.InitStartsTheResetPulse := fun s hp => exec_eq_accept .init s hp

/-! ### The phases of `INIT` (R112 to R116, R118) -/

/-- Settles O28, with what each of the three phases leaves. -/
theorem resetPulsePhases : Obligations.ResetPulsePhases := fun _ hr =>
  ⟨fun hp => step_phase (phaseStep_rAssert hp) hr hp nofun, fun hp => step_phase (phaseStep_rPulse hp) hr hp nofun,
    fun hp => step_phase (phaseStep_rRelease hp) hr hp nofun⟩

/-- Settles O29, with what the phase leaves. -/
theorem resetSettlePhase : Obligations.ResetSettlePhase := fun _ hr hp => step_phase (phaseStep_rSettle hp) hr hp nofun

/-- Settles O30: the codec's frame is the marker and the two nibbles of the byte at `IX`. -/
theorem loadPhaseFramesTheTableByte : Obligations.LoadPhaseFramesTheTableByte := fun _ hr hp =>
  step_phase (phaseStep_iLoad hp) hr hp nofun

/-- Settles O31, with what the phase leaves. -/
theorem finalSelectPhase : Obligations.FinalSelectPhase := fun _ hr hp => step_phase (phaseStep_iFinal hp) hr hp nofun

/-! ### The events of `INIT` (R119, R122) -/

theorem length_initTxns (c : Cfg) (ops : List Byte) : (initTxns c ops).length = ops.length * 5 := by
  simp [initTxns, List.length_flatMap, txn]

/-- Events of which every transaction has `n` are `n` for each byte in the bring-up's transactions. -/
theorem countP_initTxns {c : Cfg} {p : Event → Bool} {n : Nat} (hn : ∀ b, (txn c c.markerInstr b).countP p = n)
    (ops : List Byte) : (initTxns c ops).countP p = ops.length * n := by
  simp [initTxns, List.countP_flatMap, Function.comp_def, hn]

/-- The last of the five events of the `k`-th transaction is the `Tx` of the `k`-th byte, in instruction mode. -/
theorem getElem?_initTxns (c : Cfg) (ops : List Byte) (k : Nat) :
    (initTxns c ops)[4 + 5 * k]? =
      ops[k]?.map fun b => .tx c.markerInstr (b &&& 0x0F#8) (b >>> 4) 3 c.txTimeout := by
  induction ops generalizing k with
  | nil => rfl
  | cons b ops ih =>
    cases k with
    | zero => rfl
    | succ k =>
      rw [show 4 + 5 * (k + 1) = 4 + 5 * k + 5 by omega]
      change (initTxns c ops)[4 + 5 * k]? = ops[k]?.map _
      exact ih k

/-- The events of a kind in the trace of an `INIT`, when every transaction has `n` of them: those of the pulse, `n` for each
of the fourteen bytes, and that of the final select write. -/
theorem countP_initTrace {c : Cfg} {p : Event → Bool} {n : Nat} (hn : ∀ b, (txn c c.markerInstr b).countP p = n) :
    (initTrace c).countP p =
      [Event.rstW c.resetActive, .dly c.tRstPulse, .rstW c.resetActive.other, .dly c.tRstSettle].countP p + 14 * n
        + [Event.selW c.postInitSelect].countP p := by
  rw [initTrace, List.countP_append, List.countP_append, countP_initTxns hn, Vector.length_toList]

theorem length_initTrace (c : Cfg) : (initTrace c).length = 75 := by
  simp [initTrace, length_initTxns]

/-- Four events of the pulse stand before the transactions, one after them. -/
theorem getElem?_initTrace (c : Cfg) (k : Fin 14) :
    (initTrace c)[8 + 5 * k.val]? =
      some (.tx c.markerInstr (c.initOp[k] &&& 0x0F#8) (c.initOp[k] >>> 4) 3 c.txTimeout) := by
  rw [show 8 + 5 * k.val = 4 + 5 * k.val + 4 by omega]
  change (initTxns c c.initOp.toList ++ [.selW c.postInitSelect])[4 + 5 * k.val]? = _
  rw [List.getElem?_append_left (by simp [length_initTxns]; omega), getElem?_initTxns]
  simp

/-- Settles O54: a transaction has one `Tx`, no `RstW`, two `SelW` and two `Dly`, and there are fourteen of them. -/
theorem initTraceHasSeventyFiveEvents : Obligations.InitTraceHasSeventyFiveEvents := fun c =>
  ⟨length_initTrace c, countP_initTrace (n := 1) fun _ => rfl, countP_initTrace (n := 0) fun _ => rfl,
    countP_initTrace (n := 2) fun _ => rfl, countP_initTrace (n := 2) fun _ => rfl, getElem?_initTrace c⟩

/-! ### `INIT` as a whole (R110, R119 to R121) -/

/-- Settles O53: the whole command's run, and its countdown in between. -/
theorem initRunsTheWholeSequence : Obligations.InitRunsTheWholeSequence := by
  intro s x rest hs hr hp hh hd
  have hn : nextIssue s.host = .offers x rest := by rw [hh]; rfl
  exact ⟨run_command hs hr hp hn hd, fun k => run_command_busy hs hr hp hn hd⟩

/-- Settles O55: what an `INIT` leaves in the registers and appends is a function of the configuration; `PH`, `IX` and `INI`
are as they were, and so those of any idle state. -/
theorem initIsIdempotent : Obligations.InitIsIdempotent := by
  intro s s' x x' rest rest' hs hs' hr hr' hp hp' hcfg hh hh' hd hd'
  obtain ⟨hrun, -⟩ := initRunsTheWholeSequence s x rest hs hr hp hh hd
  obtain ⟨hrun', -⟩ := initRunsTheWholeSequence s' x' rest' hs' hr' hp' hh' hd'
  obtain ⟨hix, hini⟩ := hs.idle hp
  obtain ⟨hix', hini'⟩ := hs'.idle hp'
  rw [hcfg] at hrun'
  exact ⟨_, _, initTrace s.cfg, hrun, hrun', rfl, rfl, length_initTrace s.cfg, rfl, rfl, rfl, rfl, hp'.trans hp.symm,
    hix'.trans hix.symm, hini'.trans hini.symm⟩

end Sys2Proof.Machine

/-! ## The pseudo-command RENDER: its expansion, and its run from issue to end (43_text_render_host.md) -/

namespace Sys2Proof.Machine

/-! ### The row base addresses (R131) -/

/-- The base addresses fit a byte. -/
theorem rowBase_toNat {row : Nat} (h : row ≤ 4) : (rowBase row).toNat = 0x80 + (row - 1) * 0x20 := by
  simp only [rowBase, ROW_BASE, ROW_STRIDE, BitVec.toNat_ofNat]
  omega

/-! ### The expansion (R130, R133) -/

/-- Bytes that are not zero are kept, and the search goes on after them. -/
theorem untilSentinel_append {glyphs : List Byte} (tail : List Byte) (h : 0#8 ∉ glyphs) :
    untilSentinel (glyphs ++ tail) = (untilSentinel tail).map (glyphs ++ ·) := by
  induction glyphs with
  | nil => simp
  | cons b glyphs ih =>
    rw [List.mem_cons, not_or] at h
    obtain ⟨hb, hglyphs⟩ := h
    simp [untilSentinel, Ne.symm hb, ih hglyphs, Function.comp_def]

/-- The first zero byte ends the sequence: what follows it is not looked at. -/
theorem untilSentinel_append_zero {glyphs : List Byte} (junk : List Byte) (h : 0#8 ∉ glyphs) :
    untilSentinel (glyphs ++ 0#8 :: junk) = some glyphs := by
  simp [untilSentinel_append _ h, untilSentinel]

theorem untilSentinel_eq_none {seq : List Byte} (h : 0#8 ∉ seq) : untilSentinel seq = none := by
  simpa [untilSentinel] using untilSentinel_append [] h

section
variable {row : Nat} {glyphs : List Byte}

/-- A number from 1 to 4 is a row as the model's integers have it. -/
theorem row_in_domain (h₁ : 1 ≤ row) (h₂ : row ≤ 4) : 1 ≤ (row : Int) ∧ (row : Int) ≤ (N_ROWS : Int) := by
  simp only [N_ROWS]
  omega

/-- `RENDER` offers the positioning `SENDI`, and leaves one `SENDD` for each byte before the first zero byte. -/
theorem nextIssue_render (h₁ : 1 ≤ row) (h₂ : row ≤ 4) (h : 0#8 ∉ glyphs) (junk : List Byte) (rest : List Request) :
    nextIssue (.render row (glyphs ++ 0#8 :: junk) :: rest) =
      .offers (encodeInstr (.sendi (rowBase row))) (glyphRequests glyphs ++ rest) := by
  have he : expandRender row (glyphs ++ 0#8 :: junk) = .ok (rowBase row, glyphs) := by
    simp [expandRender, row_in_domain h₁ h₂, untilSentinel_append_zero junk h]
  rw [nextIssue, he]

theorem nextIssue_render_without_sentinel (h₁ : 1 ≤ row) (h₂ : row ≤ 4) (h : 0#8 ∉ glyphs) (rest : List Request) :
    nextIssue (.render row glyphs :: rest) = .refused .renderWithoutSentinel := by
  have he : expandRender row glyphs = .error .renderWithoutSentinel := by
    simp [expandRender, row_in_domain h₁ h₂, untilSentinel_eq_none h]
  rw [nextIssue, he]

end

/-- Settles O57: a sequence with a zero byte is cut at the first one. -/
theorem rowBaseAddresses : Obligations.RowBaseAddresses := by
  refine ⟨rfl, rfl, rfl, rfl, fun row h₁ h₂ => ⟨rowBase_toNat h₂, fun seq rest hz => ?_⟩⟩
  obtain ⟨glyphs, junk, rfl, h⟩ := List.eq_append_cons_of_mem hz
  exact ⟨_, nextIssue_render h₁ h₂ h junk rest⟩

/-- Settles O58: no byte stands before the first zero byte. -/
theorem emptyTextIssuesOnlyThePositioning : Obligations.EmptyTextIssuesOnlyThePositioning :=
  fun _ junk rest h₁ h₂ => nextIssue_render (glyphs := []) h₁ h₂ List.not_mem_nil junk rest

/-- Settles O59, with the sentinel and without it. -/
theorem firstZeroByteEndsTheText : Obligations.FirstZeroByteEndsTheText :=
  fun _ _ junk rest h₁ h₂ h => ⟨nextIssue_render h₁ h₂ h junk rest, nextIssue_render_without_sentinel h₁ h₂ h rest⟩

/-! ### The run (R130, R132, R178) -/

theorem decode_encodeInstr_sendi (b : Byte) : decode (encodeInstr (.sendi b)) = .ok (.sendi b) := by
  simp [decode, encodeInstr, decodeCommand, opField_commandWord, byteField_commandWord]

theorem decode_encodeInstr_sendd (b : Byte) : decode (encodeInstr (.sendd b)) = .ok (.sendd b) := by
  simp [decode, encodeInstr, decodeCommand, opField_commandWord, byteField_commandWord]

/-- Five events for the positioning, five for each data byte. -/
theorem length_renderTrace (c : Cfg) (base : Byte) (glyphs : List Byte) :
    (renderTrace c base glyphs).length = 5 * (1 + glyphs.length) := by
  have htxn (m b : Byte) : (txn c m b).length = 5 := rfl
  simp [renderTrace, List.length_flatMap, htxn, Nat.mul_add, Nat.mul_comm]

section
variable (c : Cfg) (base b : Byte) (glyphs : List Byte)

/-- The last data byte is the one whose transaction ends the trace. -/
theorem renderTrace_append_singleton :
    renderTrace c base (glyphs ++ [b]) = renderTrace c base glyphs ++ txn c c.markerData b := by
  simp [renderTrace]

/-- The last data byte is the one whose frame stays in `FB`. -/
theorem renderFrame_append_singleton : renderFrame c base (glyphs ++ [b]) = encodeFrame c.markerData b := by
  simp [renderFrame]

/-- After a `RENDER` the buffer holds a codec frame (R22). -/
theorem renderFrame_wf : (renderFrame c base glyphs).wf c = true := by
  cases h : glyphs.getLast? with
  | none =>
    simp only [renderFrame, h]
    exact encodeFrame_marker_wf c .instr base
  | some b =>
    simp only [renderFrame, h]
    exact encodeFrame_marker_wf c .data b

end

/-- The idle state in which a `RENDER` issued in the idle state `s` ends. -/
def State.rendered (s : State) (base : Byte) (glyphs : List Byte) : State := { s with
  fb := renderFrame s.cfg base glyphs, fbHeld := true, sel := .low,
  trace := s.trace ++ renderTrace s.cfg base glyphs, draws := s.draws + (1 + glyphs.length) }

section
variable {s : State}

theorem State.Inv.rendered (hs : s.Inv) (hp : s.ph = .idle) (base : Byte) (glyphs : List Byte) :
    (s.rendered base glyphs).Inv := by
  obtain ⟨hix, hini⟩ := hs.idle hp
  exact (inv_iff_of_idle (s := s.rendered base glyphs) hp).2 ⟨hix, hini, fun _ => renderFrame_wf s.cfg base glyphs⟩

/-- A `RENDER` of no data byte is its positioning `SENDI`. -/
theorem State.rendered_nil (base : Byte) : s.rendered base [] = s.perform (.sendi base) := by
  simp [State.rendered, State.perform, renderFrame, renderTrace]

/-- A `RENDER` of one data byte more is that byte's `SENDD` more. -/
theorem State.rendered_append_singleton (base b : Byte) (glyphs : List Byte) :
    s.rendered base (glyphs ++ [b]) = (s.rendered base glyphs).perform (.sendd b) := by
  simp [State.rendered, State.perform, renderFrame_append_singleton, renderTrace_append_singleton, Nat.add_assoc]

/-- The expansion of a `RENDER` runs to the state of `rendered`, by induction on the data bytes from the last one back: the
last one's `SENDD` is the command that follows the `RENDER` of those before it. -/
theorem run_render {base : Byte} {glyphs : List Byte} {rest : List Request} (hs : s.Inv) (hr : s.extReset = false)
    (hp : s.ph = .idle)
    (hn : nextIssue s.host = .offers (encodeInstr (.sendi base)) (glyphRequests glyphs ++ rest)) :
    run (6 * (1 + glyphs.length)) s = .next (({ s with host := rest } : State).rendered base glyphs) := by
  induction glyphs using List.reverseRecOn generalizing rest with
  | nil =>
    rw [State.rendered_nil]
    exact run_command hs hr hp hn (decode_encodeInstr_sendi base)
  | append_singleton glyphs b ih =>
    have hbefore := ih (rest := .word (encodeInstr (.sendd b)) :: rest) (by simpa [glyphRequests] using hn)
    have hinv := (hs.withOutside s.extReset (.word (encodeInstr (.sendd b)) :: rest)).rendered hp base glyphs
    have hlast := run_command hinv hr hp rfl (decode_encodeInstr_sendd b)
    have hsteps : 6 * (1 + (glyphs ++ [b]).length) = 6 * (1 + glyphs.length) + 6 := by simp [Nat.mul_add, Nat.add_assoc]
    rw [hsteps, run_add hbefore, State.rendered_append_singleton]
    exact hlast

end

/-- Settles O60: the state in which the run ends has the listed fields. -/
theorem renderSendsPositionThenEachByte : Obligations.RenderSendsPositionThenEachByte := by
  intro s row glyphs junk rest hs hr hp h₁ h₂ h hh
  have hn := hh ▸ nextIssue_render h₁ h₂ h junk rest
  exact ⟨_, run_render hs hr hp hn, hp, rfl, rfl, rfl, rfl, rfl, rfl, rfl, length_renderTrace ..⟩

end Sys2Proof.Machine

/-! ## Exceptions: a step is refused on what the host offers only, and answers a next state otherwise (60_exceptions.md) -/

namespace Sys2Proof.Machine

/-! ### Words that do not decode (R60, R69) -/

theorem decodeF3_eq_error_iff {w : BitVec 24} {e : DecodeError} :
    decodeF3 w = .error e ↔
      (w.extractLsb' 12 4 ≠ 0#4 ∨ w.extractLsb' 4 4 ≠ 0#4) ∧ e = .upperNibbleNotZero w := by
  unfold decodeF3
  split
  next hz =>
    obtain ⟨h₁, h₂⟩ := hz
    simp [h₁, h₂]
  next hz => simp [not_and_or.mp hz, eq_comm (a := e)]

/-- No command word is rejected: what does not decode is an `F3` word with a fixed bit set. -/
theorem decode_eq_error_iff {x : InstrWord} {e : DecodeError} :
    decode x = .error e ↔
      ∃ w, x = .f3 w ∧ (w.extractLsb' 12 4 ≠ 0#4 ∨ w.extractLsb' 4 4 ≠ 0#4) ∧ e = .upperNibbleNotZero w := by
  cases x with
  | cw w => simp [decode]
  | f3 w => simp [decode, decodeF3_eq_error_iff]

/-! ### Requests outside their domain (R133, R135) -/

theorem untilSentinel_eq_none_iff {seq : List Byte} : untilSentinel seq = none ↔ 0#8 ∉ seq := by
  refine ⟨fun h hz => ?_, untilSentinel_eq_none⟩
  obtain ⟨glyphs, junk, rfl, hglyphs⟩ := List.eq_append_cons_of_mem hz
  simp [untilSentinel_append_zero junk hglyphs] at h

/-- The row is tested before the sequence (log 11). -/
theorem expandRender_eq_error_iff {row : Int} {seq : List Byte} {r : Refusal} :
    expandRender row seq = .error r ↔
      (¬ (1 ≤ row ∧ row ≤ 4) ∧ r = .renderRowOutOfRange row) ∨
      ((1 ≤ row ∧ row ≤ 4) ∧ 0#8 ∉ seq ∧ r = .renderWithoutSentinel) := by
  rw [← untilSentinel_eq_none_iff]
  by_cases hrow : 1 ≤ row ∧ row ≤ 4
  · cases hu : untilSentinel seq with
    | none => simp [expandRender, N_ROWS, hrow, hu, eq_comm]
    | some glyphs => simp [expandRender, N_ROWS, hrow, hu]
  · simp [expandRender, N_ROWS, hrow, eq_comm]

theorem nextIssue_eq_refused_iff {rs : List Request} {r : Refusal} :
    nextIssue rs = .refused r ↔ ∃ row seq rest, rs = .render row seq :: rest ∧ expandRender row seq = .error r := by
  cases rs with
  | nil => simp [nextIssue]
  | cons q rest =>
    cases q with
    | word x => simp [nextIssue]
    | render row seq => cases he : expandRender row seq <;> simp [nextIssue, he]

/-- The word a `RENDER` offers decodes, so a word that does not was in the host's list itself. -/
theorem eq_word_of_offers_undecodable {rs rest : List Request} {x : InstrWord} {e : DecodeError}
    (hn : nextIssue rs = .offers x rest) (hd : decode x = .error e) : rs = .word x :: rest := by
  cases rs with
  | nil => cases hn
  | cons q tail =>
    cases q with
    | word y => cases hn; rfl
    | render row seq =>
      cases he : expandRender row seq with
      | error r => simp [nextIssue, he] at hn
      | ok issue =>
        obtain ⟨rfl, -⟩ : encodeInstr (.sendi issue.1) = x ∧ _ := by simpa [nextIssue, he] using hn
        cases (decode_encodeInstr_sendi issue.1).symm.trans hd

theorem offers_undecodable_iff {rs : List Request} {r : Refusal} :
    (∃ x rest e, nextIssue rs = .offers x rest ∧ decode x = .error e ∧ r = refusalOf e) ↔
      ∃ w rest, rs = .word (.f3 w) :: rest ∧ (w.extractLsb' 12 4 ≠ 0#4 ∨ w.extractLsb' 4 4 ≠ 0#4) ∧
        r = .notACodecWord w := by
  constructor
  · rintro ⟨x, rest, e, hn, hd, rfl⟩
    obtain ⟨w, rfl, hbits, rfl⟩ := decode_eq_error_iff.mp hd
    exact ⟨w, rest, eq_word_of_offers_undecodable hn hd, hbits, rfl⟩
  · rintro ⟨w, rest, rfl, hbits, rfl⟩
    exact ⟨.f3 w, rest, _, rfl, decode_eq_error_iff.mpr ⟨w, rfl, hbits, rfl⟩, rfl⟩

/-! ### The step (R140, R149) -/

/-- No block reset, no phase and no acceptance is refused: the two refusals of a step stand before the instruction. -/
theorem step_eq_refused_iff {s : State} {r : Refusal} :
    step s = .refused r ↔ s.extReset = false ∧ s.ph = .idle ∧
      (nextIssue s.host = .refused r ∨
       ∃ x rest e, nextIssue s.host = .offers x rest ∧ decode x = .error e ∧ r = refusalOf e) := by
  rcases Bool.eq_false_or_eq_true s.extReset with hr | hr
  · simp [step_extReset s hr, hr]
  by_cases hp : s.ph = .idle
  · rw [step_idle s hr hp]
    cases hn : nextIssue s.host with
    | nothing => simp
    | refused q => simp [hr, hp]
    | offers x rest =>
      cases hd : decode x with
      | ok i => simp [hd, exec_eq_accept i { s with host := rest } hp]
      | error e => simp [hr, hp, hd, eq_comm]
  · simp [step_busy s hr hp, hp]

/-- Settles O42: the host's issue is refused on a `RENDER` without expansion, and the decoder refuses what the host offers on
an `F3` word with a fixed bit set. -/
theorem onlyTheHostLayerIsRefused : Obligations.OnlyTheHostLayerIsRefused := by
  intro s r
  simp only [step_eq_refused_iff, nextIssue_eq_refused_iff, expandRender_eq_error_iff, offers_undecodable_iff]

theorem request_wf_render_iff {row : Int} {seq : List Byte} :
    (Request.render row seq).wf = true ↔ (1 ≤ row ∧ row ≤ 4) ∧ 0#8 ∈ seq := by
  have hrows : (N_ROWS : Int) = 4 := rfl
  simp [Request.wf, rowInRange, hasSentinel, ← hrows]

theorem request_wf_f3_iff {w : BitVec 24} :
    (Request.word (.f3 w)).wf = true ↔ w.extractLsb' 12 4 = 0#4 ∧ w.extractLsb' 4 4 = 0#4 := by
  simp [Request.wf, InstrWord.wf]

/-- What a step is refused on is no request the spec admits. -/
theorem exists_ill_formed_of_step_refused {s : State} {r : Refusal} (h : step s = .refused r) :
    ∃ q ∈ s.host.head?, ¬ q.wf = true := by
  obtain ⟨-, -, ⟨row, seq, rest, hh, hbad⟩ | ⟨w, rest, hh, hbits, -⟩⟩ := (onlyTheHostLayerIsRefused s r).mp h
  · refine ⟨.render row seq, by simp [hh], fun hwf => ?_⟩
    obtain ⟨hrow, hseq⟩ := request_wf_render_iff.mp hwf
    obtain ⟨hbadRow, -⟩ | ⟨-, hnoSentinel, -⟩ := hbad
    · exact hbadRow hrow
    · exact hnoSentinel hseq
  · exact ⟨.word (.f3 w), by simp [hh], fun hwf => not_and_or.mpr hbits (request_wf_f3_iff.mp hwf)⟩

/-- Settles O43: there is no fault, and a refused request is not well formed. -/
theorem admittedRequestsAlwaysStep : Obligations.AdmittedRequestsAlwaysStep := by
  intro s hwf
  cases hs : step s with
  | next t => exact ⟨t, rfl⟩
  | fault r => exact nomatch r
  | refused r =>
    obtain ⟨q, hq, hill⟩ := exists_ill_formed_of_step_refused hs
    exact absurd (hwf q hq) hill

end Sys2Proof.Machine

/-! ## The codec of words: encoding and decoding back, the opcode table's numbers, and the placed word -/

namespace Sys2Proof

/-! ### Decoding an encoded instruction (R60, R66) -/

/-- The fixed bits of an encoded `F3` word are zero, and its three fields are the marker and the two nibbles (R60). -/
theorem f3Word_extractLsb' (m b : Byte) :
    (f3Word m b).extractLsb' 12 4 = 0#4 ∧ (f3Word m b).extractLsb' 4 4 = 0#4 ∧
      (f3Word m b).extractLsb' 16 8 = m ∧ (f3Word m b).extractLsb' 8 4 = b.extractLsb' 0 4 ∧
      (f3Word m b).extractLsb' 0 4 = b.extractLsb' 4 4 := by
  refine ⟨?_, ?_, ?_, ?_, ?_⟩ <;>
    (ext i hi
     simp only [f3Word]
     interval_cases i <;> simp)

/-- A byte is made up by its two nibbles. -/
theorem highNibble_or_lowNibble (b : Byte) :
    (b.extractLsb' 4 4).setWidth 8 <<< 4 ||| (b.extractLsb' 0 4).setWidth 8 = b := by
  ext i hi
  interval_cases i <;> simp

theorem decodeF3_f3Word (m b : Byte) : decodeF3 (f3Word m b) = .ok (.encode m b) := by
  obtain ⟨h₁, h₂, hm, hlow, hhigh⟩ := f3Word_extractLsb' m b
  simp [decodeF3, h₁, h₂, hm, hlow, hhigh, highNibble_or_lowNibble]

theorem decode_encodeInstr (i : Instr) : decode (encodeInstr i) = .ok i := by
  cases i with
  | nop => rfl
  | sendi b => exact Machine.decode_encodeInstr_sendi b
  | sendd b => exact Machine.decode_encodeInstr_sendd b
  | init => rfl
  | encode m b => exact decodeF3_f3Word m b

/-! ### Words as numbers of the opcode table (log 13) -/

/-- A word's number, under the width its format has in the table, stands for that word. -/
theorem tableWord_toNat (x : InstrWord) : tableWord (if x.width = 10 then 16 else 24) x.toNat = some x := by
  cases x with
  | cw w =>
    have hw : w.toNat < 1024 := w.isLt
    simp [tableWord, InstrWord.width, InstrWord.toNat, hw]
  | f3 w =>
    have hw : w.toNat < 16777216 := w.isLt
    simp [tableWord, InstrWord.width, InstrWord.toNat, hw]

theorem decodeTableWord_eq_some_iff {nbits w : Nat} {i : Instr} :
    decodeTableWord nbits w = some i ↔ ∃ x, tableWord nbits w = some x ∧ decode x = .ok i := by
  cases ht : tableWord nbits w with
  | none => simp [decodeTableWord, ht]
  | some x => cases hd : decode x <;> simp [decodeTableWord, ht, hd]

/-- Settles O3: the encoded word decodes to the instruction, and its number stands for it. -/
theorem decodeOfEncodeIsTheInstruction : Obligations.DecodeOfEncodeIsTheInstruction := fun i _ =>
  ⟨decode_encodeInstr i, decodeTableWord_eq_some_iff.mpr ⟨encodeInstr i, tableWord_toNat _, decode_encodeInstr i⟩⟩

/-- Settles O1: the command words are closed terms of the decoder, V12 is the word of `Encode(0x1F, 0xA5)`, and the last word
has a fixed bit set. -/
theorem listedWordsDecodeAsTheSpecSays : Obligations.ListedWordsDecodeAsTheSpecSays :=
  ⟨rfl, rfl, rfl, rfl, rfl, rfl, rfl, rfl, rfl, decodeF3_f3Word 0x1F#8 0xA5#8,
    Machine.decodeF3_eq_error_iff.mpr ⟨.inl (by decide), rfl⟩⟩

end Sys2Proof

namespace Sys2Proof.Machine

/-- A number that is a word of the table is put in front of the host's list, before a resting block (log 5, log 14). -/
theorem State.withFetchWord_of_tableWord (s : State) {nbits w : Nat} {x : InstrWord} (h : tableWord nbits w = some x) :
    s.withFetchWord nbits w =
      { s with host := .word x :: s.host, extReset := false, ph := .idle, ix := 0, ini := false } := by
  simp [State.withFetchWord, h]

/-- Settles O19: the resting block is offered the placed word, and accepts it. -/
theorem placedWordRunsNext : Obligations.PlacedWordRunsNext := by
  intro s nbits w i h
  obtain ⟨x, hx, hd⟩ := decodeTableWord_eq_some_iff.mp h
  rw [s.withFetchWord_of_tableWord hx]
  exact step_offers _ x s.host i rfl rfl rfl hd

end Sys2Proof.Machine
